-- ==== Sys2Proof/Word.lean ====
section
/-! DEFINITION. Word: the two word types of the hardware and the bit strings of its notation (spec/00_scope.md R7,
R10, R11, R12). -/

namespace Sys2Proof

/-- A symbol, and the unit of system memory: one byte (R7, R50). -/
abbrev Byte := BitVec 8

/-- A register word and a system byte address (R3, R10). -/
abbrev Word := BitVec 32

/-- A bit string, first bit first (R12). -/
abbrev Bits := List Bool

end Sys2Proof
end

