-- ==== Sys2Proof/Machine/Bytes.lean ====
section
/-! DEFINITION. Bytes: big-endian fields and MSB-first bits (spec/00_scope.md R11, R12; spec/20_memory.md R58). -/

namespace Sys2Proof.Machine

/-- `bytes_be(v, n)` (R11): the n-byte big-endian form of v. -/
def bytesBE (v : Nat) : Nat → List Byte
  | 0 => []
  | n + 1 => BitVec.ofNat 8 (v / 256 ^ n) :: bytesBE v n

/-- `BE(s)` (R11): the number the bytes spell in big-endian order. -/
def natBE (bs : List Byte) : Nat := bs.foldl (fun acc b => acc * 256 + b.toNat) 0

/-- The number a bit string spells, first bit most significant. -/
def natOfBits (bs : Bits) : Nat := bs.foldl (fun acc b => acc * 2 + b.toNat) 0

/-- Bit `i` of a byte stream (R12): bit `7 − (i mod 8)` of byte `i div 8`. -/
def streamBit (bs : List Byte) (i : Nat) : Bool := (bs.getD (i / 8) 0#8).getLsbD (7 - i % 8)

end Sys2Proof.Machine
end

