-- ==== Sys2Proof/Config.lean ====
section
/-! DEFINITION. Config: the parameters spec/00_scope.md R8 fixes, the hardwired register values, and the one source of
free values. The OPEN parameters of R8 (REG_BASE, COHERENT_DMA, BUS_ERROR_ORACLE) are plain data of State
(`Machine.Platform`), so that a statement about every state is one about every platform. -/

namespace Sys2Proof.Config

/-- ALPHABET (R8): the number of distinct symbol values. -/
def alphabet : Nat := 256

/-- P (R8, spec/42_arithmetic.md R151): the width of the arithmetic coder's registers. -/
def codeBits : Nat := 32

/-- MAX_LEN (R8, R9, R34) = 2^30 − 1. -/
def maxLen : Nat := 0x3FFFFFFF

/-- The number of system memory addresses, 2^ADDR_BITS (R8, spec/20_memory.md R50). -/
def addressSpace : Nat := 2 ^ 32

/-- REG_BYTES (R8, spec/10_state.md R22): the size of the register window. -/
def regBytes : Nat := 256

/-- The value of the ID register (R4, R23). -/
def idValue : Word := 0x52414953#32

/-- The value of the VERSION register (R4, R24). -/
def versionValue : Word := 0x00010000#32

/-- FREE VALUE (log 6): the words the spec leaves unspecified (spec/93_implementation_defined.md U1 to U5, U11), one for
each value of the counter `freeCtr` of State. It has no body: nothing can be proved of a value of it. -/
opaque freeWord : Nat → Word

/-- FREE VALUE (log 6, 13): which of two things the platform may do first, one choice for each value of `freeCtr`. It has
no body, and nothing relates it to `freeWord`. -/
opaque freeChoice : Nat → Bool

end Sys2Proof.Config
end

