-- ==== Sys2Proof/Syntax.lean ====
section
/-! DEFINITION. Syntax: the six commands of spec/opcode_table.json, the register names, the host's accesses and events,
and the frequency model of spec/00_scope.md R16. -/

namespace Sys2Proof

/-- A command (spec/30_encoding.md R71), one constructor per row of spec/opcode_table.json. A command has no operand
field: its operands are the latched registers (R73). -/
inductive Instr where
  | freq    -- R109
  | henc    -- R130
  | hdec    -- R131
  | hcodes  -- R134
  | aenc    -- R158
  | adec    -- R163
  deriving DecidableEq, Repr

/-- The registers of spec/10_state.md R22, and the reserved slots of R35. -/
inductive Csr where
  | id | version | ctrl | cmd | srcAddr | srcLen | dstAddr | dstCap | status | dstLen | symCount | maxLen | reserved
  deriving DecidableEq, Repr

/-- One access of the register slave port: the system address and the number of bytes it asks for (R3, R59). -/
structure PortAccess where
  addr  : Word
  bytes : Nat
  deriving DecidableEq, Repr

/-- The byte offset of an access from REG_BASE (R22). DESIGN CHOICE (log 9): it is taken modulo 2^32, so a window whose
REG_BASE is above 0xFFFF_FF00 goes on at address 0, where the spec is silent. -/
def PortAccess.offset (base : Word) (a : PortAccess) : Nat := (a.addr - base).toNat

/-- What the outside world can do to the machine (spec/60_exceptions.md R225, spec/30_encoding.md R83). -/
inductive HostEvent where
  | regWrite (access : PortAccess) (value : Word)  -- WR
  | regRead (access : PortAccess)                  -- RD
  | wait                                           -- WAIT: read STATUS until DONE = 1
  | memWrite (addr : Word) (value : Byte)          -- MEM, or a store by software or another agent
  | memRead (addr : Word)                          -- software reads a byte of system memory
  | takeIrq                                        -- wait for irq = 1 and take it (R83, R225)
  | maintain                                       -- the platform's cache maintenance (R63, R66)
  | resetPin                                       -- the reset input (R230)
  deriving DecidableEq, Repr

/-- A frequency model: (symbol, frequency) pairs (R16). -/
abbrev FreqModel := List (Byte × Nat)

/-- T(m): the sum of the frequencies (R16, spec/40_frequency_model.md R102). -/
def FreqModel.total (m : FreqModel) : Nat := (m.map Prod.snd).sum

/-- A code table: each present symbol with its codeword (spec/41_huffman.md R126). -/
abbrev CodeTable := List (Byte × Bits)

end Sys2Proof
end

