-- ==== Sys2Proof/Machine/State.lean ====
section
/-! DEFINITION. State: everything the spec gives the machine (spec/10_state.md), system memory (spec/20_memory.md R50),
the platform's OPEN parameters (spec/00_scope.md R8), and the model's own fields (`freeCtr`, `inputs`, `schedule`,
`resp`: log 2, 3, 6). -/

namespace Sys2Proof.Machine

/-! ## Outcome codes -/

/-- STATUS.ERRCODE (spec/60_exceptions.md R201). Codes 9 to 15 are never reported and have no constructor. -/
inductive ErrCode where
  | noError              -- 0 NONE
  | modelParse           -- 1 MODEL_PARSE
  | truncated            -- 2 TRUNCATED
  | unsupportedAlphabet  -- 3 UNSUPPORTED_ALPHABET: never produced (R204)
  | outputOverflow       -- 4 OUTPUT_OVERFLOW
  | length               -- 5 LENGTH
  | badCommand           -- 6 BAD_COMMAND
  | badConfig            -- 7 BAD_CONFIG
  | busError             -- 8 BUS_ERROR
  deriving DecidableEq, Repr

/-- Why the machine stops with a fault. -/
inductive Fault where
  /-- Raised by every meaning when no START has been accepted (`running` is none): there is no command to run. `step`
  never raises it. Safe: the machine stops where the spec gives nothing to do (log 22). -/
  | noCommand
  deriving DecidableEq, Repr

/-- Why the model refuses. -/
inductive Refusal where
  /-- Raised by an arm of `exec` whose instruction has no meaning yet; there is none. Safe: the model stops. -/
  | notModelled (mnemonic : String)
  deriving DecidableEq, Repr

/-! ## Memory regions and the platform -/

/-- System memory: the bytes that differ from what an unlisted address reads as, by rising address (log 5). -/
abbrev Memory := List Host.Cell

/-- The addresses [base, base + size) (spec/20_memory.md R51). -/
structure Region where
  base : Nat
  size : Nat
  deriving DecidableEq, Repr

/-- The direction of a DMA access (spec/60_exceptions.md R209, D35). -/
inductive DmaDir where
  | read | write
  deriving DecidableEq, Repr

/-- What the platform answers instead of plain data. -/
inductive BusAnswer where
  | error       -- a bus-error response (R209, U8)
  | never       -- no answer at all (spec/70_reset_and_hazards.md R241, U9)
  | sideEffect  -- data of a device whose reads have side effects (R62, U7)
  deriving DecidableEq, Repr

/-- One entry of BUS_ERROR_ORACLE (D35): accesses in direction `dir` to `region` get `answer`. -/
structure BusRule where
  dir    : DmaDir
  region : Region
  answer : BusAnswer
  deriving DecidableEq, Repr

/-- The OPEN parameters of spec/00_scope.md R8. No step changes them. -/
structure Platform where
  regBase     : Word
  coherentDma : Bool
  busRules    : List BusRule
  deriving DecidableEq, Repr

/-! ## Internal working state (R39) -/

/-- An entry of the Huffman node store (R39, spec/41_huffman.md R120): a leaf, or an internal node that names its children
by their insertion indices (R121). -/
inductive HuffNode where
  | leaf (sym : Byte) (freq idx : Nat)
  | internal (freq idx left right : Nat)
  deriving DecidableEq, Repr

/-- The bit writer's registers (R39): the bits of the unfinished byte, from its bit 7 down, and how many there are, 0 to 7. -/
structure WriterRegs where
  acc   : Byte
  count : Nat
  deriving DecidableEq, Repr

/-- The arithmetic coder's registers (R39, spec/42_arithmetic.md R152, R160). `low`, `high` and `value` are P-bit values;
they are computed on natural numbers (R13) and stay below 2^P. -/
structure Coder where
  low     : Nat
  high    : Nat
  value   : Nat
  pending : Nat
  deriving DecidableEq, Repr

/-- The internal working state of R39 and spec/41_huffman.md R129, but for the latched operands. Software cannot read it, and it is private to the
running command (R42). -/
structure Work where
  freqTable  : List Nat       -- one count for each symbol
  nodes      : List HuffNode  -- the node store, children before parents
  queue      : List Nat       -- the priority queue: insertion indices of nodes
  stack      : List (Nat × Bits)  -- the traversal stack, top first: nodes by index, with their paths (R129)
  codes      : CodeTable
  writer     : WriterRegs
  readIndex  : Nat            -- the bit reader's bit index
  coder      : Coder
  coderIndex : Nat            -- the arithmetic decoder's bit index
  deriving DecidableEq, Repr

/-- The operands latched at an accepted START (R41). -/
structure Latch where
  op : BitVec 4
  sa : Word
  sl : Word
  da : Word
  dc : Word
  deriving DecidableEq, Repr

/-- A command between its accepted START and its completion. -/
structure Running where
  latch   : Latch
  /-- The source region or the window was written since START (spec/20_memory.md R66, U5). -/
  hazard  : Bool
  /-- At START some source byte the host had written was not yet visible to DMA (R66, U11). -/
  stale   : Bool
  /-- A DMA access of the command is never answered (spec/70_reset_and_hazards.md R241, U9). -/
  stalled : Bool
  deriving DecidableEq, Repr

/-! ## The host's side -/

/-- Who moves next while a command runs (log 2). -/
inductive Turn where
  | host | core
  deriving DecidableEq, Repr

/-- The answer to the host's last access (R59, R60). -/
inductive Response where
  | ack                -- a register write completed
  | data (w : Word)    -- a register read
  | byte (b : Byte)    -- a read of system memory
  | busError           -- the register port refused the access
  deriving DecidableEq, Repr

/-! ## State -/

/-- The machine. STATUS.BUSY is `running.isSome` and STATUS.ERR is `errCode ≠ noError` (R31); ID, VERSION and MAX_LEN are
constants of Config. -/
structure State where
  irqEn     : Bool            -- CTRL[2] (R25)
  cmdOp     : BitVec 4        -- CMD[3:0] (R26)
  srcAddr   : Word            -- R27
  srcLen    : Word            -- R28
  dstAddr   : Word            -- R29
  dstCap    : Word            -- R30
  done      : Bool            -- STATUS[1] (R31)
  empty     : Bool            -- STATUS[3] (R31)
  errCode   : ErrCode         -- STATUS[11:8] (R31)
  dstLen    : Word            -- R32
  symCount  : Word            -- R33
  running   : Option Running  -- R39, R41; none: no command
  work      : Work            -- R39
  unseen    : Option Latch    -- the last completion's operands, until software has observed DONE = 1 (R235)
  mem       : Memory          -- spec/20_memory.md R50
  platform  : Platform        -- spec/00_scope.md R8
  hostDirty : List Region     -- written by the host, not yet visible to DMA (R66, U11)
  dmaDirty  : List Region     -- written by the core, not yet visible to the host (R63, U11)
  inputs    : List HostEvent  -- log 3
  schedule  : List Turn       -- log 2
  resp      : Option Response -- log 3
  freeCtr   : Nat             -- log 6
  deriving DecidableEq, Repr

/-- STATUS.BUSY (R31, R37). -/
abbrev State.busy (s : State) : Bool := s.running.isSome

/-- The working state when there is none (spec/70_reset_and_hazards.md R231, spec/10_state.md R44): empty tables, bit writer
and bit reader. The coder's registers are unspecified there: DESIGN CHOICE 0 (log 15). -/
def Work.empty : Work where
  freqTable  := []
  nodes      := []
  queue      := []
  stack      := []
  codes      := []
  writer     := ⟨0#8, 0⟩
  readIndex  := 0
  coder      := ⟨0, 0, 0, 0⟩
  coderIndex := 0

/-- The machine right after reset (R44, spec/70_reset_and_hazards.md R230, R231). Memory lists nothing (log 5); the
platform is at REG_BASE 0, coherent, with no bus rule (log 7, 8, 9); nothing is queued (log 2, 3). -/
def State.reset : State where
  irqEn     := false
  cmdOp     := 0#4
  srcAddr   := 0#32
  srcLen    := 0#32
  dstAddr   := 0#32
  dstCap    := 0#32
  done      := false
  empty     := false
  errCode   := .noError
  dstLen    := 0#32
  symCount  := 0#32
  running   := none
  work      := Work.empty
  unseen    := none
  mem       := []
  platform  := ⟨0#32, true, []⟩
  hostDirty := []
  dmaDirty  := []
  inputs    := []
  schedule  := []
  resp      := none
  freeCtr   := 0

end Sys2Proof.Machine
end

