-- ==== Sys2Proof/Machine/BitStream.lean ====
section
/-! DEFINITION. BitStream: the bit writer and the bit reader (spec/43_bitstream.md R180 to R183), and the arithmetic
decoder's bit source (spec/42_arithmetic.md R159). -/

namespace Sys2Proof.Machine

/-- The bit writer (R180) as the stream of the bits appended so far, first to last. Of this the hardware holds only the
unfinished byte (`BitWriter.regs`); the finished bytes are output. -/
structure BitWriter where
  bits : Bits
  deriving DecidableEq, Repr

/-- The bit reader (R182): the payload, N_bits and the index of the next bit. -/
structure BitReader where
  payload : List Byte
  nBits   : Nat
  pos     : Nat
  deriving DecidableEq, Repr

/-- BitWriter() (R180). -/
def BitWriter.empty : BitWriter := ⟨[]⟩

/-- W.append(b) (R180): b goes to stream index k. -/
def BitWriter.append (w : BitWriter) (b : Bool) : BitWriter := ⟨w.bits ++ [b]⟩

/-- Append each bit of a bit string, first to last. -/
def BitWriter.appendAll (w : BitWriter) (bs : Bits) : BitWriter := bs.foldl BitWriter.append w

/-- Byte `i` of the output: stream index 8·i + j is its bit 7 − j; a bit never appended is 0 (R180, R181). -/
def packedByte (bits : Bits) (i : Nat) : Byte :=
  BitVec.ofNat 8 (natOfBits ((List.range 8).map (fun j => bits.getD (8 * i + j) false)))

/-- The ceil(k / 8) output bytes of k bits (R181). -/
def packBits (bits : Bits) : List Byte := (List.range ((bits.length + 7) / 8)).map (packedByte bits)

/-- The writer's registers (spec/10_state.md R39): the unfinished byte and how many bits it has. -/
def BitWriter.regs (w : BitWriter) : WriterRegs :=
  ⟨if w.bits.length % 8 = 0 then 0#8 else packedByte w.bits (w.bits.length / 8), w.bits.length % 8⟩

/-- The padding count of k bits: (8 − (k mod 8)) mod 8 (R181, spec/30_encoding.md R78). -/
def padOf (k : Nat) : Nat := (8 - k % 8) % 8

/-- W.flush() (R181). -/
def BitWriter.flush (w : BitWriter) : List Byte × Nat := (packBits w.bits, padOf w.bits.length)

/-- BitReader(payload, N_bits) (R182). -/
def BitReader.start (payload : List Byte) (nBits : Nat) : BitReader := ⟨payload, nBits, 0⟩

/-- The reader with one more bit read. -/
def BitReader.advance (r : BitReader) : BitReader := { r with pos := r.pos + 1 }

/-- R.read() (R182). -/
def BitReader.read (r : BitReader) : Except ErrCode (Bool × BitReader) :=
  if r.pos < r.nBits then .ok (streamBit r.payload r.pos, r.advance) else .error .truncated

/-- BitIn (spec/42_arithmetic.md R159): up to P − 2 zero bits follow the payload. -/
def BitReader.bitIn (r : BitReader) : Except ErrCode (Bool × BitReader) :=
  if r.pos < r.nBits then .ok (streamBit r.payload r.pos, r.advance)
  else if r.pos < r.nBits + (Config.codeBits - 2) then .ok (false, r.advance)
  else .error .truncated

end Sys2Proof.Machine
end

