-- ==== Sys2Proof/WellFormed.lean ====
section
/-! DEFINITION. WellFormed: the checks on syntax. A command has no operand field, so every term of Instr is well formed;
what can be ill formed is a CMD word's reserved bits, a port access and a frequency model. -/

namespace Sys2Proof

/-- Every command is well formed: it has no field (spec/30_encoding.md R70, R73). -/
def Instr.wf : Instr → Bool
  | .freq => true
  | .henc => true
  | .hdec => true
  | .hcodes => true
  | .aenc => true
  | .adec => true

/-- A CMD word as the register reads back: bits 31 to 4 are 0 (R70). Other words decode too (R85). -/
def cmdWordCanonical (w : Word) : Bool := w.extractLsb' 4 28 == 0#28

/-- A port access the register port answers: an aligned 32-bit word inside the window (spec/20_memory.md R59). -/
def PortAccess.wf (base : Word) (a : PortAccess) : Bool :=
  a.bytes == 4 && a.offset base % 4 == 0 && decide (a.offset base < Config.regBytes)

/-- Strictly ascending symbols (R16, R77). -/
def ascending : FreqModel → Bool
  | [] => true
  | [_] => true
  | (s, _) :: (s', f') :: m => decide (s.toNat < s'.toNat) && ascending ((s', f') :: m)

/-- A frequency model a header may carry: at most 256 records, strictly ascending symbols, every count at least 1, a total
of at most MAX_LEN (R16, R77, spec/40_frequency_model.md R106 (b), (d), (e), (f)). -/
def FreqModel.wf (m : FreqModel) : Bool :=
  decide (m.length ≤ Config.alphabet) && ascending m && m.all (fun p => decide (1 ≤ p.2))
    && decide (m.total ≤ Config.maxLen)

end Sys2Proof
end

