-- ==== Sys2Proof/Decode.lean ====
section
/-! DEFINITION. Decode: from a CMD word to a command or a reserved opcode, and back (spec/30_encoding.md R70 to R72,
spec/opcode_table.json). -/

namespace Sys2Proof

/-- A row of spec/opcode_table.json: a word matches when its bits under `mask` are `pattern`. -/
structure OpcodeRow where
  mask    : Word
  pattern : Word
  instr   : Instr
  deriving DecidableEq, Repr

/-- Why a CMD word names no command: its opcode is reserved (R72). -/
inductive DecodeReject where
  | reservedOpcode (op : BitVec 4)
  deriving DecidableEq, Repr

/-- The opcode map (R71; spec/opcode_table.json, "match" and "mask"). -/
def opcodeTable : List OpcodeRow :=
  [⟨0x0000000F#32, 0x00000001#32, .freq⟩,
   ⟨0x0000000F#32, 0x00000002#32, .henc⟩,
   ⟨0x0000000F#32, 0x00000003#32, .hdec⟩,
   ⟨0x0000000F#32, 0x00000004#32, .hcodes⟩,
   ⟨0x0000000F#32, 0x00000005#32, .aenc⟩,
   ⟨0x0000000F#32, 0x00000006#32, .adec⟩]

/-- CMD[3:0], the field OP (R70). -/
def opField (w : Word) : BitVec 4 := w.extractLsb' 0 4

/-- Decoding is total (R85): the row the word matches, else the reserved opcode by its value. -/
def decode (w : Word) : Except DecodeReject Instr :=
  match opcodeTable.find? (fun r => w &&& r.mask == r.pattern) with
  | some r => .ok r.instr
  | none => .error (.reservedOpcode (opField w))

/-- Decoding of the opcode latched at START (R41). -/
def decodeOp (op : BitVec 4) : Except DecodeReject Instr := decode (op.setWidth 32)

/-- The opcode of a command (R71). -/
def Instr.opcode : Instr → BitVec 4
  | .freq => 0x1#4
  | .henc => 0x2#4
  | .hdec => 0x3#4
  | .hcodes => 0x4#4
  | .aenc => 0x5#4
  | .adec => 0x6#4

/-- The CMD word of a command: its opcode in bits 3 to 0, the reserved bits 0 (R70). -/
def encode (i : Instr) : Word := i.opcode.setWidth 32

/-- The command the decoder reads from an opcode-table word of `nbits` bits; the bits above `nbits` are 0. -/
def decodeTableWord (nbits w : Nat) : Option Instr :=
  match decode (BitVec.ofNat 32 (w % 2 ^ nbits)) with
  | .ok i => some i
  | .error _ => none

end Sys2Proof
end

