-- ==== Sys2Proof/Machine/Operands.lean ====
section
/-! DEFINITION. Operands: the latched operands of a command (spec/10_state.md R41, spec/30_encoding.md R73), its two
regions, and the checks made before any DMA access (spec/20_memory.md R52, R53; spec/60_exceptions.md R206). -/

namespace Sys2Proof.Machine

/-! ## Regions -/

/-- The address lies in [base, base + size). -/
def Region.contains (r : Region) (a : Nat) : Bool := decide (r.base ≤ a) && decide (a < r.base + r.size)

/-- The two regions share at least one byte; a region of length 0 overlaps nothing (R53). -/
def Region.overlaps (r q : Region) : Bool :=
  decide (0 < r.size) && decide (0 < q.size) && decide (r.base < q.base + q.size) && decide (q.base < r.base + r.size)

/-- The region does not pass the top of the address space, computed without wrap-around (R52). -/
def Region.fits (r : Region) : Bool := decide (r.base + r.size ≤ Config.addressSpace)

/-! ## The latches -/

/-- What an accepted START copies (R41). -/
def State.latchOperands (s : State) : Latch := ⟨s.cmdOp, s.srcAddr, s.srcLen, s.dstAddr, s.dstCap⟩

/-- The source region [sa, sa + sl) (R51). -/
def Latch.src (l : Latch) : Region := ⟨l.sa.toNat, l.sl.toNat⟩

/-- The destination window [da, da + dc) (R51). -/
def Latch.dst (l : Latch) : Region := ⟨l.da.toNat, l.dc.toNat⟩

/-! ## Checks before any DMA access -/

/-- The commands with a limit on `sl` (R206). -/
def limitsLength : Instr → Bool
  | .freq => true
  | .henc => true
  | .hdec => false
  | .hcodes => true
  | .aenc => true
  | .adec => false

/-- The second to fourth lines of the frame (spec/40_frequency_model.md R100): BAD_CONFIG, then LENGTH. -/
def preCheck (i : Instr) (l : Latch) : Option ErrCode :=
  if !(l.src.fits && l.dst.fits) then some .badConfig
  else if l.src.overlaps l.dst then some .badConfig
  else if limitsLength i && decide (Config.maxLen < l.sl.toNat) then some .length
  else none

end Sys2Proof.Machine
end

