-- ==== Sys2Proof/Machine/Ops.lean ====
section
/-! DEFINITION. Ops: system memory, the platform's answers, free values, and the shared operations every command ends or
begins with: accepting a START, the two completions, the outcome the spec leaves unspecified, and reset. -/

namespace Sys2Proof.Machine

/-! ## System memory (spec/20_memory.md R50, R51) -/

/-- DESIGN CHOICE (log 5): what a byte nothing has written reads as (spec/95_test_vectors.md section 3). -/
def Memory.unlisted : Byte := 0#8

/-- A read of one byte. -/
def Memory.read : Memory → Nat → Byte
  | [], _ => Memory.unlisted
  | (k, v) :: m, a => if a = k then v else Memory.read m a

/-- The memory without what it lists at address `a`. -/
def Memory.drop (m : Memory) (a : Nat) : Memory := m.filter (fun c => c.1 != a)

/-- An entry in its place among rising addresses. -/
def Memory.put : Memory → Nat → Byte → Memory
  | [], a, b => [(a, b)]
  | (k, v) :: m, a, b => if a < k then (a, b) :: (k, v) :: m else (k, v) :: Memory.put m a b

/-- A write of one byte, keeping the canonical form: what an unlisted byte reads as is not listed. -/
def Memory.write (m : Memory) (a : Nat) (b : Byte) : Memory :=
  if b = Memory.unlisted then m.drop a else Memory.put (m.drop a) a b

/-- Consecutive byte writes from address `a` up (R56). -/
def Memory.writeBytes : Memory → Nat → List Byte → Memory
  | m, _, [] => m
  | m, a, b :: bs => Memory.writeBytes (Memory.write m a b) (a + 1) bs

/-- Consecutive byte reads from address `a` up (R54). -/
def Memory.readBytes (m : Memory) (a n : Nat) : List Byte := (List.range n).map (fun i => Memory.read m (a + i))

/-- Every entry is at `lo` or above, below 2^32, rising, and differs from what an unlisted byte reads as. -/
def Memory.wfFrom : Nat → Memory → Bool
  | _, [] => true
  | lo, (a, b) :: m =>
    decide (lo ≤ a) && decide (a < Config.addressSpace) && b != Memory.unlisted && Memory.wfFrom (a + 1) m

/-- The canonical form. -/
def Memory.wf (m : Memory) : Bool := Memory.wfFrom 0 m

/-! ## Free values (log 6) -/

/-- The k-th unspecified word from here. -/
def State.free (s : State) (k : Nat) : Word := Config.freeWord (s.freeCtr + k)

/-- Move past n unspecified words. -/
def State.bump (s : State) (n : Nat) : State := { s with freeCtr := s.freeCtr + n }

/-- n unspecified bytes. -/
def State.freeBytes (s : State) (n : Nat) : List Byte := (List.range n).map (fun k => (s.free k).setWidth 8)

/-! ## The platform (spec/00_scope.md R8; spec/60_exceptions.md R209) -/

/-- Some access of direction `dir` in region `r` gets the answer `ans`. -/
def Platform.answers (p : Platform) (dir : DmaDir) (r : Region) (ans : BusAnswer) : Bool :=
  p.busRules.any (fun b => b.dir == dir && b.answer == ans && b.region.overlaps r)

/-- How a set of DMA accesses ends. -/
inductive DmaResult where
  | ok | error | stall
  deriving DecidableEq, Repr

/-- The accesses of direction `dir` to every byte of `r` (R54, R56). Their order is unspecified (R66), so where one gets a
bus error and another no answer, either may come first: a free choice (log 13). -/
def State.dma (s : State) (dir : DmaDir) (r : Region) : DmaResult :=
  if s.platform.answers dir r .never && (!s.platform.answers dir r .error || Config.freeChoice s.freeCtr) then .stall
  else if s.platform.answers dir r .error then .error
  else .ok

/-- Some byte of `r` may be stale on the side that reads it (R63, R66, U11). -/
def State.stale (s : State) (dirty : List Region) (r : Region) : Bool :=
  !s.platform.coherentDma && dirty.any (fun q => q.overlaps r)

/-- What the command reads of its source is any value, and two reads of a byte may differ, so that its result is not
defined (R54): the source was stale at START (U11), or it holds a device with read side effects (R62, U7). -/
def State.unsteady (s : State) (r : Running) : Bool :=
  r.stale || s.platform.answers .read r.latch.src .sideEffect

/-- The command's outcome (R66, R235, U5) or its result (R54) is unspecified. -/
def State.unstable (s : State) (r : Running) : Bool := r.hazard || s.unsteady r

/-- The source bytes (spec/40_frequency_model.md R100). -/
def State.source (s : State) (l : Latch) : List Byte := s.mem.readBytes l.sa.toNat l.sl.toNat

/-- The dirty regions after a write of `r`: only a platform that is not coherent has any (log 8). -/
def State.addDirty (s : State) (dirty : List Region) (r : Region) : List Region :=
  if s.platform.coherentDma then dirty else r :: dirty

/-- The destination writes of a successful command (R56). -/
def State.storeResult (s : State) (l : Latch) (out : List Byte) : State :=
  { s with
    mem := s.mem.writeBytes l.da.toNat out
    dmaDirty := s.addDirty s.dmaDirty ⟨l.da.toNat, out.length⟩ }

/-- How many bytes of the window [da, da + dc) exist: a window that passes 2^32 (R52) is cut there. -/
def Latch.windowSize (l : Latch) : Nat := min l.dc.toNat (Config.addressSpace - l.da.toNat)

/-- Every byte of the window holds any value (R57, U2, U3). The counter moves past these and past the choices made on the
way (log 13). -/
def State.scrubWindow (s : State) (l : Latch) : State :=
  { s with
    mem := s.mem.writeBytes l.da.toNat (s.freeBytes l.windowSize)
    dmaDirty := s.addDirty s.dmaDirty l.dst
    freeCtr := s.freeCtr + l.windowSize + 1 }

/-! ## Start (spec/10_state.md R40, R41) -/

/-- The working state as an accepted START leaves it (R40; spec/42_arithmetic.md R152). -/
def Work.init : Work where
  freqTable  := List.replicate Config.alphabet 0
  nodes      := []
  queue      := []
  stack      := []
  codes      := []
  writer     := ⟨0#8, 0⟩
  readIndex  := 0
  coder      := ⟨0, 2 ^ Config.codeBits - 1, 0, 0⟩
  coderIndex := 0

/-- Put the working state that the units of a command leave. -/
def State.setWork (s : State) (w : Work) : State := { s with work := w }

/-- An accepted START: latch the operands, re-initialise the working state, STATUS ← 0x0000_0001 (R40, R41). -/
def State.acceptStart (s : State) : State :=
  { s with
    running := some ⟨s.latchOperands, false, s.stale s.hostDirty s.latchOperands.src, false⟩
    work := Work.init
    unseen := none
    done := false
    empty := false
    errCode := .noError }

/-! ## Completion (spec/60_exceptions.md R212, R213): the trap entry of this hardware -/

/-- The operands of the command that completes, unobserved as yet (R235). -/
def State.completing (s : State) : Option Latch := s.running.map (fun r => r.latch)

/-- CompleteErr(code) (R212, R214): the working state is discarded. -/
def State.completeErr (s : State) (code : ErrCode) : State :=
  { s with
    running := none
    work := Work.empty
    unseen := s.completing
    done := true
    empty := false
    errCode := code
    dstLen := 0#32
    symCount := 0#32 }

/-- CompleteOk(len, syms) (R213). -/
def State.completeOk (s : State) (len syms : Nat) : State :=
  { s with
    running := none
    unseen := s.completing
    done := true
    empty := decide (syms = 0)
    errCode := .noError
    dstLen := BitVec.ofNat 32 len
    symCount := BitVec.ofNat 32 syms }

/-- The codes an unspecified outcome may report: 0 to 8 without 3, which is never produced (R204; U5; log 10). -/
def reportableCodes : List ErrCode :=
  [.noError, .modelParse, .truncated, .outputOverflow, .length, .badCommand, .badConfig, .busError]

/-- An unspecified outcome (R66, R235, U5): any code, any DST_LEN and SYM_COUNT, ERR and EMPTY consistent. -/
def State.unspecifiedOutcome (s : State) : State :=
  { s with
    empty := decide (reportableCodes.getD ((s.free 0).toNat % 8) .noError = .noError) && decide (s.free 2 = 0#32)
    errCode := reportableCodes.getD ((s.free 0).toNat % 8) .noError
    dstLen := s.free 1
    symCount := s.free 2
    freeCtr := s.freeCtr + 3 }

/-- A completion with an unspecified outcome. -/
def State.completeUnspecified (s : State) : State :=
  { s.unspecifiedOutcome with
    running := none
    work := Work.empty
    unseen := s.completing
    done := true }

/-- Acknowledging a completion: a STATUS write with bit 1 set (R31, R216): the return of this hardware. -/
def State.acknowledge (s : State) : State := { s with done := false }

/-- A DMA access that is never answered: BUSY stays 1 (spec/70_reset_and_hazards.md R241, U9). -/
def State.stall (s : State) (r : Running) : State := { s with running := some { r with stalled := true } }

/-! ## Reset (spec/70_reset_and_hazards.md R230, R232, R233) -/

/-- A running command is abandoned: its window holds any bytes, whatever the command is (R233, U3). -/
def State.abandon (s : State) : State :=
  match s.running with
  | none => s
  | some r => s.scrubWindow r.latch

/-- Every register at its reset value, no command; memory, the platform and the host's side are not the core's (R230). -/
def State.clearCore (s : State) : State :=
  { s with
    irqEn := false
    cmdOp := 0#4
    srcAddr := 0#32
    srcLen := 0#32
    dstAddr := 0#32
    dstCap := 0#32
    done := false
    empty := false
    errCode := .noError
    dstLen := 0#32
    symCount := 0#32
    running := none
    work := Work.empty
    unseen := none }

/-- A hardware reset or a soft reset (R230, R232, R233). -/
def State.resetCore (s : State) : State := s.abandon.clearCore

end Sys2Proof.Machine
end

