-- ==== Sys2Proof/Machine/Frame.lean ====
section
/-! DEFINITION. Frame: the command frame of spec/40_frequency_model.md R100, which every command runs in. -/

namespace Sys2Proof.Machine

/-- What a body returns: result bytes, symbol count (spec/00_scope.md R14), and what its units hold of the working state
(spec/10_state.md R39). -/
structure BodyOut where
  out  : List Byte
  syms : Nat
  work : Work
  deriving DecidableEq, Repr

/-- What a body ends with: a return, or an error. -/
abbrev BodyResult := Except ErrCode BodyOut

/-- A command that ends before any DMA access (R206, R207, R208): memory is untouched. With a region hazard its outcome and
the window are unspecified (spec/20_memory.md R66, R235; log 10). -/
def State.endBeforeDma (s : State) (r : Running) (code : ErrCode) : State :=
  if r.hazard then (s.scrubWindow r.latch).completeUnspecified else s.completeErr code

/-- A command that ends with an error after DMA may have begun (R212, spec/20_memory.md R57). -/
def State.endWithError (s : State) (r : Running) (code : ErrCode) : State := (s.scrubWindow r.latch).completeErr code

/-- A command whose regions were written while it ran (R66, R235, U5): it completes with an unspecified outcome; where the
platform does not answer some write of the window, it may be one that waits for that write for ever (U9; log 13). -/
def State.endUnspecified (s : State) (r : Running) : State :=
  if s.platform.answers .write r.latch.dst .never && Config.freeChoice s.freeCtr then s.stall r
  else (s.scrubWindow r.latch).completeUnspecified

/-- The end of the frame: the capacity check, the destination writes, CompleteOk (R100, R205, R213). -/
def State.deliver (s : State) (r : Running) (b : BodyOut) : State :=
  if r.latch.dc.toNat < b.out.length then s.endWithError r .outputOverflow
  else
    match s.dma .write ⟨r.latch.da.toNat, b.out.length⟩ with
    | .stall => s.stall r
    | .error => s.endWithError r .busError
    | .ok => ((s.storeResult r.latch b.out).setWork b.work).completeOk b.out.length b.syms

/-- The end of a body, whatever it is: its error, or its result delivered (R100). -/
def State.finish (s : State) (r : Running) : BodyResult → State
  | .error code => s.endWithError r code
  | .ok b => s.deliver r b

/-- A body's own errors (R211, fifth line; spec/60_exceptions.md R202, R203, R205). An encoder has none: its
OUTPUT_OVERFLOW is found by `deliver`. -/
def bodyErrors : Instr → List ErrCode
  | .freq => []
  | .henc => []
  | .hdec => [.modelParse, .outputOverflow, .truncated]
  | .hcodes => []
  | .aenc => []
  | .adec => [.modelParse, .outputOverflow, .truncated]

/-- The fewest bytes a command writes when it succeeds (spec/30_encoding.md R79 to R82). -/
def shortestOut : Instr → Nat
  | .freq => 2
  | .henc => 3
  | .hdec => 0
  | .hcodes => 2
  | .aenc => 7
  | .adec => 0

/-- The number of result bytes of an undefined result. -/
def State.freeLength (s : State) (i : Instr) : Nat := max (shortestOut i) (s.free 1).toNat

/-- SYM_COUNT of a result of `n` bytes: an encoder's is `sl` whatever it reads, a decoder's is `n` (R33). -/
def symsOf (i : Instr) (l : Latch) (n : Nat) : Nat := if limitsLength i then l.sl.toNat else n

/-- A body's result where the source bytes are not defined (R54; U7, U11; log 8, 14): any error the body can raise, or any
bytes; SYM_COUNT follows its rule (R33). -/
def State.freeResult (s : State) (i : Instr) (r : Running) : BodyResult :=
  match (bodyErrors i)[(s.free 0).toNat % ((bodyErrors i).length + 1)]? with
  | some code => .error code
  | none => .ok ⟨(s.bump 2).freeBytes (s.freeLength i), symsOf i r.latch (s.freeLength i), Work.empty⟩

/-- The frame from the source reads on (R100). A bus error on a read ends the command with BUS_ERROR whatever the other
bytes are (R54, R209, R211); only a region hazard frees the code (R66). -/
def State.runBody (s : State) (i : Instr) (r : Running) (body : List Byte → Nat → BodyResult) : State :=
  match s.dma .read r.latch.src with
  | .stall => s.stall r
  | .error => if r.hazard then s.endUnspecified r else s.endWithError r .busError
  | .ok =>
    if r.hazard then s.endUnspecified r
    else if s.unsteady r then (s.bump (2 + s.freeLength i)).finish r (s.freeResult i r)
    else s.finish r (body (s.source r.latch) r.latch.dc.toNat)

/-- Frame(op, sa, sl, da, dc) for a command that is not reserved (R100). -/
def State.frame (s : State) (i : Instr) (r : Running) (body : List Byte → Nat → BodyResult) : State :=
  match preCheck i r.latch with
  | some code => s.endBeforeDma r code
  | none => s.runBody i r body

/-- The frame's first line: a reserved opcode ends at once with BAD_COMMAND (R100, spec/30_encoding.md R72, R207). -/
def State.rejectReserved (s : State) (r : Running) : State := s.endBeforeDma r .badCommand

/-- Run the command of an accepted START with this body. -/
def runCommand (i : Instr) (body : List Byte → Nat → BodyResult) (s : State) : Host.Outcome State Fault Refusal :=
  match s.running with
  | none => .fault .noCommand
  | some r => .next (s.frame i r body)

end Sys2Proof.Machine
end

