-- ==== Sys2Proof/Machine/FrequencyModel.lean ====
section
/-! DEFINITION. FrequencyModel: the FrequencyModel unit, the ModelCodec (header serializer and parser) and the command
FREQ (spec/40_frequency_model.md R102 to R109). -/

namespace Sys2Proof.Machine

/-! ## FrequencyModel (R102 to R104) -/

/-- The symbols in ascending order. -/
def allSymbols : List Byte := (List.range Config.alphabet).map (BitVec.ofNat 8)

/-- The frequency table: cnt[s] for s = 0 .. 255 (R102). -/
def freqTable (src : List Byte) : List Nat := allSymbols.map (fun s => src.count s)

/-- BuildModel(src): the symbols that occur, ascending, with their counts (R102). -/
def buildModel (src : List Byte) : FreqModel := (allSymbols.zip (freqTable src)).filter (fun p => decide (1 ≤ p.2))

/-- The frequency table that holds a model (R39): its counts, 0 for the symbols it lacks. -/
def tableOf (m : FreqModel) : List Nat :=
  allSymbols.map (fun s => match m.find? (fun p => p.1 == s) with
    | some p => p.2
    | none => 0)

/-- The working state of a command that has a model and nothing else. -/
def modelWork (m : FreqModel) : Work := { Work.init with freqTable := tableOf m }

/-! ## ModelCodec (R105, R106) -/

/-- One record: SYM, FRQ (spec/30_encoding.md R74, R75). -/
def serializeRecord (p : Byte × Nat) : List Byte := p.1 :: bytesBE p.2 4

/-- SerializeModel(m): the record count, then the records (R105). -/
def serializeModel (m : FreqModel) : List Byte := bytesBE m.length 2 ++ m.flatMap serializeRecord

/-- What ParseHeader returns (R106). -/
structure Header where
  model   : FreqModel
  total   : Nat
  payload : List Byte
  nBits   : Nat
  deriving DecidableEq, Repr

/-- The records of a header, with checks (d) and (e) (R106): `prev` is the symbol of the record before. -/
def parseRecords : Nat → Option Byte → List Byte → Except ErrCode FreqModel
  | 0, _, _ => .ok []
  | k + 1, prev, s :: b3 :: b2 :: b1 :: b0 :: bs =>
    if natBE [b3, b2, b1, b0] = 0 then .error .modelParse
    else if prev.any (fun p => decide (s.toNat ≤ p.toNat)) then .error .modelParse
    else
      match parseRecords k (some s) bs with
      | .ok m => .ok ((s, natBE [b3, b2, b1, b0]) :: m)
      | .error e => .error e
  | _ + 1, _, _ => .error .modelParse

/-- ParseHeader(src, ari) (R106). Each test carries the letter of its check. -/
def parseHeader (src : List Byte) (ari : Bool) : Except ErrCode Header :=
  let n := natBE (src.take 2)
  let rec0 := 2 + 5 * n
  let hdr := rec0 + (if ari then 4 else 0)
  if src.length < 2 then .error .modelParse                                               -- (a)
  else if Config.alphabet < n then .error .modelParse                                     -- (b)
  else if src.length < hdr + 1 then .error .modelParse                                    -- (c)
  else
    match parseRecords n none (src.drop 2) with                                           -- (d), (e)
    | .error e => .error e
    | .ok m =>
      let pad := (src.getD hdr 0#8).toNat
      let payload := src.drop (hdr + 1)
      if Config.maxLen < m.total then .error .modelParse                                  -- (f)
      else if ari && natBE ((src.drop rec0).take 4) != m.total then .error .modelParse    -- (g)
      else if 7 < pad then .error .modelParse                                             -- (h)
      else if payload.isEmpty && pad != 0 then .error .modelParse                         -- (i)
      else .ok ⟨m, m.total, payload, 8 * payload.length - pad⟩

/-! ## FREQ (R109) -/

/-- Body_FREQ (R109). -/
def bodyFreq (src : List Byte) (_dc : Nat) : BodyResult :=
  .ok ⟨serializeModel (buildModel src), src.length, modelWork (buildModel src)⟩

/-- FREQ: frequency model dump (R109). -/
def execFreq (s : State) : Host.Outcome State Fault Refusal := runCommand .freq bodyFreq s

end Sys2Proof.Machine
end

