-- ==== Sys2Proof/Machine/Arithmetic.lean ====
section
/-! DEFINITION. Arithmetic: the interval partition, the arithmetic coder and the commands AENC and ADEC
(spec/42_arithmetic.md R150 to R163). -/

namespace Sys2Proof.Machine

/-! ## Partition (R150) -/

/-- A symbol's sub-interval [cumLow/T, cumHigh/T). -/
structure PartEntry where
  sym     : Byte
  cumLow  : Nat
  cumHigh : Nat
  deriving DecidableEq, Repr

/-- The sub-intervals from the cumulative count `c` up. -/
def partitionFrom : Nat → FreqModel → List PartEntry
  | _, [] => []
  | c, (s, f) :: m => ⟨s, c, c + f⟩ :: partitionFrom (c + f) m

/-- Partition(m) (R150). -/
def partition (m : FreqModel) : List PartEntry := partitionFrom 0 m

/-- The entry of a symbol of the model; a symbol of the input is always in its model. -/
def entryOf (part : List PartEntry) (s : Byte) : PartEntry :=
  match part.find? (fun e => e.sym == s) with
  | some e => e
  | none => ⟨s, 0, 0⟩

/-! ## Constants (R151) -/

/-- FULL = 2^P − 1. -/
def full : Nat := 2 ^ Config.codeBits - 1

/-- HALF = 2^(P−1). -/
def half : Nat := 2 ^ (Config.codeBits - 1)

/-- QTR = 2^(P−2). -/
def qtr : Nat := 2 ^ (Config.codeBits - 2)

/-- TQTR = 3·2^(P−2). -/
def tqtr : Nat := 3 * 2 ^ (Config.codeBits - 2)

/-! ## The interval, shared by encoder and decoder (R152 to R154, R162) -/

/-- The initial registers (R152, R160). -/
def Coder.start : Coder := ⟨0, full, 0, 0⟩

/-- Narrowing by a symbol; both bounds come from the old `low` (R153). -/
def Coder.narrow (t : Nat) (e : PartEntry) (c : Coder) : Coder :=
  { c with
    high := c.low + (c.high - c.low + 1) * e.cumHigh / t - 1
    low := c.low + (c.high - c.low + 1) * e.cumLow / t }

/-- Which arm of the renormalization loop applies (R154). -/
inductive RenormArm where
  | lower   -- high < HALF
  | upper   -- low ≥ HALF
  | middle  -- low ≥ QTR and high < TQTR
  | exit
  deriving DecidableEq, Repr

/-- The tests of the loop in their order (R154). -/
def Coder.arm (c : Coder) : RenormArm :=
  if c.high < half then .lower
  else if half ≤ c.low then .upper
  else if qtr ≤ c.low ∧ c.high < tqtr then .middle
  else .exit

/-- What an arm takes off the registers before the shift (R154, R162). -/
def RenormArm.offset : RenormArm → Nat
  | .lower => 0
  | .upper => half
  | .middle => qtr
  | .exit => 0

/-- The bounds after one pass of the loop: low ← 2·low, high ← 2·high + 1 (R154). -/
def Coder.shift (a : RenormArm) (c : Coder) : Coder :=
  { c with low := 2 * (c.low - a.offset), high := 2 * (c.high - a.offset) + 1 }

/-! ## Encoder (R152 to R156) -/

/-- EmitBit(b) (R155). -/
def emitBit (b : Bool) (c : Coder) (w : BitWriter) : Coder × BitWriter :=
  ({ c with pending := 0 }, (w.append b).appendAll (List.replicate c.pending (!b)))

/-- The encoder's part of an arm: the emitted bit or the deferred one (R154). -/
def encodeArm (a : RenormArm) (c : Coder) (w : BitWriter) : Coder × BitWriter :=
  match a with
  | .lower => emitBit false c w
  | .upper => emitBit true c w
  | .middle => ({ c with pending := c.pending + 1 }, w)
  | .exit => (c, w)

/-- The loop of R154. An interval of width at least 1 leaves it after at most P passes (log 16), so it is called with P. -/
def encodeRenorm : Nat → Coder × BitWriter → Coder × BitWriter
  | 0, st => st
  | n + 1, (c, w) =>
    match c.arm with
    | .exit => (c, w)
    | a =>
      let e := encodeArm a c w
      encodeRenorm n (e.1.shift a, e.2)

/-- One input symbol: narrow, renormalize (R153, R154, R158). -/
def encodeSymbol (t : Nat) (part : List PartEntry) (st : Coder × BitWriter) (s : Byte) : Coder × BitWriter :=
  encodeRenorm Config.codeBits (st.1.narrow t (entryOf part s), st.2)

/-- Termination (R156). -/
def encodeFinish (st : Coder × BitWriter) : Coder × BitWriter :=
  emitBit (!decide (st.1.low < qtr)) { st.1 with pending := st.1.pending + 1 } st.2

/-- The coder and the writer after an input with at least two symbols (R158). -/
def arithmeticEncode (m : FreqModel) (src : List Byte) : Coder × BitWriter :=
  encodeFinish (src.foldl (encodeSymbol m.total (partition m)) (Coder.start, BitWriter.empty))

/-- The payload bits of an input with at least two symbols (R158). -/
def arithmeticWriter (m : FreqModel) (src : List Byte) : BitWriter := (arithmeticEncode m src).2

/-- Body_AENC (R158, R157). -/
def bodyAenc (src : List Byte) (_dc : Nat) : BodyResult :=
  let m := buildModel src
  let hdr := serializeModel m ++ bytesBE src.length 4
  if m.length ≤ 1 then .ok ⟨hdr ++ [0#8], src.length, modelWork m⟩
  else
    let e := arithmeticEncode m src
    .ok ⟨hdr ++ BitVec.ofNat 8 e.2.flush.2 :: e.2.flush.1, src.length,
      { modelWork m with coder := e.1, writer := e.2.regs }⟩

/-- AENC: arithmetic encode (R158). -/
def execAenc (s : State) : Host.Outcome State Fault Refusal := runCommand .aenc bodyAenc s

/-! ## Decoder (R159 to R163) -/

/-- value ← 2·value + BitIn(i); i ← i + 1 (R160, R162). -/
def Coder.shiftIn (c : Coder) (r : BitReader) : Except ErrCode (Coder × BitReader) :=
  match r.bitIn with
  | .error e => .error e
  | .ok (b, r') => .ok ({ c with value := 2 * c.value + b.toNat }, r')

/-- `n` bits into `value` (R160). -/
def decodeInit : Nat → Coder → BitReader → Except ErrCode (Coder × BitReader)
  | 0, c, r => .ok (c, r)
  | n + 1, c, r =>
    match c.shiftIn r with
    | .error e => .error e
    | .ok (c', r') => decodeInit n c' r'

/-- cum = ((value − low + 1)·T − 1) // range (R161). -/
def Coder.cum (t : Nat) (c : Coder) : Nat := ((c.value - c.low + 1) * t - 1) / (c.high - c.low + 1)

/-- The symbol's entry with cumLow ≤ cum < cumHigh (R161): the first whose cumHigh is above `cum`. The entries tile
[0, T) and cum < T (R150, R164), so it is the one entry R161 asks for (log 17). -/
def searchFrom : PartEntry → List PartEntry → Nat → PartEntry
  | e, [], _ => e
  | e, e' :: es, cum => if cum < e.cumHigh then e else searchFrom e' es cum

/-- The loop of R162, called with P as R154's is (log 16). -/
def decodeRenorm : Nat → Coder → BitReader → Except ErrCode (Coder × BitReader)
  | 0, c, r => .ok (c, r)
  | n + 1, c, r =>
    match c.arm with
    | .exit => .ok (c, r)
    | a =>
      match ({ c.shift a with value := c.value - a.offset } : Coder).shiftIn r with
      | .error e => .error e
      | .ok (c', r') => decodeRenorm n c' r'

/-- The loop of R163: exactly `n` more symbols, and the coder and the reader after them. -/
def arithmeticSymbols (t : Nat) (e0 : PartEntry) (es : List PartEntry) :
    Nat → Coder → BitReader → Except ErrCode (List Byte × Coder × BitReader)
  | 0, c, r => .ok ([], c, r)
  | n + 1, c, r =>
    let e := searchFrom e0 es (c.cum t)
    match decodeRenorm Config.codeBits (c.narrow t e) r with
    | .error err => .error err
    | .ok (c', r') =>
      match arithmeticSymbols t e0 es n c' r' with
      | .error err => .error err
      | .ok (out, c'', r'') => .ok (e.sym :: out, c'', r'')

/-- Body_ADEC (R163, R157). -/
def bodyAdec (src : List Byte) (dc : Nat) : BodyResult :=
  match parseHeader src true with
  | .error e => .error e
  | .ok h =>
    if dc < h.total then .error .outputOverflow
    else
      match h.model, partition h.model with
      | [], _ => .ok ⟨[], 0, modelWork h.model⟩
      | [(s, _)], _ => .ok ⟨List.replicate h.total s, h.total, modelWork h.model⟩
      | _, [] => .ok ⟨[], 0, modelWork h.model⟩
      | _, e0 :: es =>
        match decodeInit Config.codeBits Coder.start (BitReader.start h.payload h.nBits) with
        | .error e => .error e
        | .ok (c, r) =>
          match arithmeticSymbols h.total e0 es h.total c r with
          | .error e => .error e
          | .ok (out, c', r') => .ok ⟨out, h.total, { modelWork h.model with coder := c', coderIndex := r'.pos }⟩

/-- ADEC: arithmetic decode (R163). -/
def execAdec (s : State) : Host.Outcome State Fault Refusal := runCommand .adec bodyAdec s

end Sys2Proof.Machine
end

