-- ==== Sys2Proof/Machine/Huffman.lean ====
section
/-! DEFINITION. Huffman: the tree builder, the codeword assigner and the commands HENC, HDEC and HCODES
(spec/41_huffman.md R120 to R134). -/

namespace Sys2Proof.Machine

/-! ## Tree builder (R120 to R124) -/

/-- A Huffman node with all below it (R120); `idx` is its insertion index (R121). -/
inductive HuffTree where
  | leaf (sym : Byte) (freq idx : Nat)
  | node (freq idx : Nat) (left right : HuffTree)
  deriving DecidableEq, Repr

/-- A node's frequency (R120). -/
def HuffTree.freq : HuffTree → Nat
  | .leaf _ f _ => f
  | .node f _ _ _ => f

/-- A node's insertion index (R121). -/
def HuffTree.idx : HuffTree → Nat
  | .leaf _ _ i => i
  | .node _ i _ _ => i

/-- Node a is smaller than node b (R122). -/
def HuffTree.before (a b : HuffTree) : Bool :=
  decide (a.freq < b.freq) || (decide (a.freq = b.freq) && decide (a.idx < b.idx))

/-- The leaves, with the rank as insertion index, from rank `r` up (R121). -/
def leavesFrom : Nat → FreqModel → List HuffTree
  | _, [] => []
  | r, (s, f) :: m => .leaf s f r :: leavesFrom (r + 1) m

/-- The smallest node of a non-empty priority collection, and the others (R122, R123). -/
def popMin : HuffTree → List HuffTree → HuffTree × List HuffTree
  | a, [] => (a, [])
  | a, b :: q =>
    if b.before a then
      let p := popMin b q
      (p.1, a :: p.2)
    else
      let p := popMin a q
      (p.1, b :: p.2)

/-- One pass of the loop of R123: remove the two smallest nodes, insert their parent with index `next`; the first removed
is the left child. -/
def mergeTwo (next : Nat) (a b : HuffTree) (q : List HuffTree) : List HuffTree :=
  let p := popMin a (b :: q)
  match p.2 with
  | [] => [p.1]
  | c :: rest =>
    let r := popMin c rest
    .node (p.1.freq + r.1.freq) next p.1 r.1 :: r.2

/-- The loop of R123: merge while more than one node is left. Each pass removes one, so `n` passes are enough for n
nodes. -/
def mergeLoop : Nat → Nat → List HuffTree → List HuffTree
  | n + 1, next, a :: b :: q => mergeLoop n (next + 1) (mergeTwo next a b q)
  | _, _, q => q

/-- BuildTree(m) (R123, R124); no tree for the empty model. -/
def buildTree (m : FreqModel) : Option HuffTree := (mergeLoop m.length m.length (leavesFrom 0 m)).head?

/-- The node store that holds a tree (spec/10_state.md R39). -/
def HuffTree.store : HuffTree → List HuffNode
  | .leaf s f i => [.leaf s f i]
  | .node f i l r => l.store ++ r.store ++ [.internal f i l.idx r.idx]

/-- The working state when a model's tree is built: the store holds its nodes, the queue only the root. -/
def treeWork (m : FreqModel) : Work :=
  match buildTree m with
  | none => modelWork m
  | some t => { modelWork m with nodes := t.store, queue := [t.idx] }

/-! ## Codeword assigner (R126, R127) -/

/-- The registers of the traversal (R126): the stack S, top first, of nodes with their paths from the root, and code. -/
structure Assigner where
  stack : List (HuffTree × Bits)
  codes : CodeTable
  deriving DecidableEq, Repr

/-- S ← [(root, "")], code ← {} (R126). -/
def Assigner.start (root : HuffTree) : Assigner := ⟨[(root, [])], []⟩

/-- One pass of the loop of R126; with an empty stack the loop has ended. -/
def Assigner.pass (a : Assigner) : Assigner :=
  match a.stack with
  | [] => a
  | (.leaf s _ _, p) :: st => ⟨st, a.codes ++ [(s, p)]⟩
  | (.node _ _ l r, p) :: st => ⟨(l, p ++ [false]) :: (r, p ++ [true]) :: st, a.codes⟩

/-- `n` passes. -/
def Assigner.run : Nat → Assigner → Assigner
  | 0, a => a
  | n + 1, a => a.pass.run n

/-- AssignCodes(root) as its registers are at the end: each pass pops one node of the tree, so as many passes as it has
nodes empty the stack (R126); a root that is a leaf is not traversed (R127). -/
def assign : HuffTree → Assigner
  | .leaf s _ _ => ⟨[], [(s, [false])]⟩
  | .node f i l r => (Assigner.start (.node f i l r)).run (HuffTree.node f i l r).store.length

/-- AssignCodes(root) (R126, R127). -/
def assignCodes (root : HuffTree) : CodeTable := (assign root).codes

/-- code[s]. -/
def codeOf (codes : CodeTable) (s : Byte) : Bits :=
  match codes.find? (fun p => p.1 == s) with
  | some p => p.2
  | none => []

/-- The code table of a model; the empty model has none (R126, R127). -/
def codesOfModel (m : FreqModel) : CodeTable :=
  match buildTree m with
  | some t => assignCodes t
  | none => []

/-- The traversal stack that a model's assigner leaves, as the working state holds it: nodes by their indices (R129). -/
def stackOfModel (m : FreqModel) : List (Nat × Bits) :=
  match buildTree m with
  | some t => (assign t).stack.map (fun e => (e.1.idx, e.2))
  | none => []

/-- The working state when a model's codewords are assigned and a bit writer has been used. -/
def codeWork (m : FreqModel) (w : BitWriter) : Work :=
  { treeWork m with stack := stackOfModel m, codes := codesOfModel m, writer := w.regs }

/-! ## HENC (R130) -/

/-- The payload bits: the codewords of the input symbols one after another (R130). -/
def huffmanWriter (codes : CodeTable) (src : List Byte) : BitWriter :=
  src.foldl (fun w s => w.appendAll (codeOf codes s)) BitWriter.empty

/-- Body_HENC (R130). -/
def bodyHenc (src : List Byte) (_dc : Nat) : BodyResult :=
  let m := buildModel src
  if m.length = 0 then .ok ⟨serializeModel m ++ [0#8], 0, modelWork m⟩
  else
    let w := huffmanWriter (codesOfModel m) src
    .ok ⟨serializeModel m ++ BitVec.ofNat 8 w.flush.2 :: w.flush.1, src.length, codeWork m w⟩

/-- HENC: Huffman encode (R130). -/
def execHenc (s : State) : Host.Outcome State Fault Refusal := runCommand .henc bodyHenc s

/-! ## HDEC (R131 to R133) -/

/-- Walk down from a node to a leaf, one bit a step (R131, R132). -/
def walk : HuffTree → BitReader → Except ErrCode (Byte × BitReader)
  | .leaf s _ _, r => .ok (s, r)
  | .node _ _ l rt, r =>
    match r.read with
    | .error e => .error e
    | .ok (b, r') => if b then walk rt r' else walk l r'

/-- One symbol: a walk from the root; a root that is a leaf takes one bit, whatever its value (R131, R127). -/
def huffmanSymbol (root : HuffTree) (r : BitReader) : Except ErrCode (Byte × BitReader) :=
  match root with
  | .leaf s _ _ =>
    match r.read with
    | .error e => .error e
    | .ok (_, r') => .ok (s, r')
  | .node f i l rt => walk (.node f i l rt) r

/-- The loop of R131: exactly `n` more symbols (R133), and the reader after them. -/
def huffmanSymbols (root : HuffTree) : Nat → BitReader → Except ErrCode (List Byte × BitReader)
  | 0, r => .ok ([], r)
  | n + 1, r =>
    match huffmanSymbol root r with
    | .error e => .error e
    | .ok (s, r') =>
      match huffmanSymbols root n r' with
      | .error e => .error e
      | .ok (out, r'') => .ok (s :: out, r'')

/-- Body_HDEC (R131). -/
def bodyHdec (src : List Byte) (dc : Nat) : BodyResult :=
  match parseHeader src false with
  | .error e => .error e
  | .ok h =>
    if dc < h.total then .error .outputOverflow
    else
      match buildTree h.model with
      | none => .ok ⟨[], 0, modelWork h.model⟩
      | some root =>
        match huffmanSymbols root h.total (BitReader.start h.payload h.nBits) with
        | .error e => .error e
        | .ok (out, r) => .ok ⟨out, h.total, { treeWork h.model with readIndex := r.pos }⟩

/-- HDEC: Huffman decode (R131). -/
def execHdec (s : State) : Host.Outcome State Fault Refusal := runCommand .hdec bodyHdec s

/-! ## HCODES (R134) -/

/-- The bit writer that holds a symbol's codeword. -/
def codeWriter (codes : CodeTable) (s : Byte) : BitWriter := BitWriter.empty.appendAll (codeOf codes s)

/-- One entry of the code-table dump: SYM, LEN, CODE (spec/30_encoding.md R82). -/
def codeEntry (codes : CodeTable) (s : Byte) : List Byte :=
  s :: BitVec.ofNat 8 (codeOf codes s).length :: (codeWriter codes s).flush.1

/-- The bit writer after the last entry of a dump. -/
def lastWriter (codes : CodeTable) (m : FreqModel) : BitWriter :=
  match m.getLast? with
  | some p => codeWriter codes p.1
  | none => BitWriter.empty

/-- Body_HCODES (R134). -/
def bodyHcodes (src : List Byte) (_dc : Nat) : BodyResult :=
  let m := buildModel src
  if m.length = 0 then .ok ⟨bytesBE m.length 2, 0, modelWork m⟩
  else
    .ok ⟨bytesBE m.length 2 ++ m.flatMap (fun p => codeEntry (codesOfModel m) p.1), src.length,
      codeWork m (lastWriter (codesOfModel m) m)⟩

/-- HCODES: Huffman code-table dump (R134). -/
def execHcodes (s : State) : Host.Outcome State Fault Refusal := runCommand .hcodes bodyHcodes s

end Sys2Proof.Machine
end

