-- ==== Sys2Proof/Machine/Dispatch.lean ====
section
/-! DEFINITION. Dispatch: one arm per command of spec/opcode_table.json (spec/30_encoding.md R71). -/

namespace Sys2Proof.Machine

def exec (i : Instr) (s : State) : Host.Outcome State Fault Refusal :=
  match i with
  | .freq => Sys2Proof.Machine.execFreq s
  | .henc => Sys2Proof.Machine.execHenc s
  | .hdec => Sys2Proof.Machine.execHdec s
  | .hcodes => Sys2Proof.Machine.execHcodes s
  | .aenc => Sys2Proof.Machine.execAenc s
  | .adec => Sys2Proof.Machine.execAdec s

end Sys2Proof.Machine
end

