-- ==== Sys2Proof/Machine/Flags.lean ====
section
/-! DEFINITION. Flags: the register words that are put together from fields (spec/10_state.md R25, R26, R31), the codes
of spec/60_exceptions.md R201, and `irq` (R38, R215). -/

namespace Sys2Proof.Machine

/-- The ERRCODE field (R201). -/
def ErrCode.toBits : ErrCode → BitVec 4
  | .noError => 0#4
  | .modelParse => 1#4
  | .truncated => 2#4
  | .unsupportedAlphabet => 3#4
  | .outputOverflow => 4#4
  | .length => 5#4
  | .badCommand => 6#4
  | .badConfig => 7#4
  | .busError => 8#4

/-- A flag at bit `n` of a register word (spec/00_scope.md R10). -/
def flagAt (b : Bool) (n : Nat) : Word := (BitVec.ofBool b).setWidth 32 <<< n

/-- STATUS.ERR: 1 exactly when ERRCODE ≠ 0 (R31). -/
def State.err (s : State) : Bool := s.errCode != .noError

/-- STATUS as a read returns it (R31). -/
def State.statusWord (s : State) : Word :=
  flagAt s.busy 0 ||| flagAt s.done 1 ||| flagAt s.err 2 ||| flagAt s.empty 3 ||| (s.errCode.toBits.setWidth 32 <<< 8)

/-- CTRL as a read returns it: zext_32(IRQ_EN) << 2 (R25). -/
def State.ctrlWord (s : State) : Word := flagAt s.irqEn 2

/-- CMD as a read returns it (R26). -/
def State.cmdWord (s : State) : Word := s.cmdOp.setWidth 32

/-- The interrupt output: DONE ∧ IRQ_EN (R38, R215). -/
def State.irq (s : State) : Bool := s.done && s.irqEn

end Sys2Proof.Machine
end

