-- ==== Sys2Proof/Machine/Port.lean ====
section
/-! DEFINITION. Port: the register slave port (spec/10_state.md R22 to R36; spec/20_memory.md R59, R60), the host's other
actions (spec/60_exceptions.md R225), whose turn it is (log 2), and the program notation of spec/30_encoding.md R83, R84. -/

namespace Sys2Proof.Machine

/-! ## The register map (R22) -/

/-- The register at an offset of the window; every slot not listed is reserved (R22, R35). -/
def csrAt (offset : Nat) : Csr :=
  match offset / 4 with
  | 0 => .id
  | 1 => .version
  | 2 => .ctrl
  | 3 => .cmd
  | 4 => .srcAddr
  | 5 => .srcLen
  | 6 => .dstAddr
  | 7 => .dstCap
  | 8 => .status
  | 9 => .dstLen
  | 10 => .symCount
  | 11 => .maxLen
  | _ => .reserved

/-- The offset of a register; of the reserved slots the first (R22). -/
def csrOffset : Csr → Nat
  | .id => 0x00
  | .version => 0x04
  | .ctrl => 0x08
  | .cmd => 0x0C
  | .srcAddr => 0x10
  | .srcLen => 0x14
  | .dstAddr => 0x18
  | .dstCap => 0x1C
  | .status => 0x20
  | .dstLen => 0x24
  | .symCount => 0x28
  | .maxLen => 0x2C
  | .reserved => 0x30

/-- What a read of a register returns (R23 to R35). DST_LEN and SYM_COUNT are any value while BUSY = 1 (R32, R33, U4). -/
def State.csrValue (s : State) : Csr → Word
  | .id => Config.idValue
  | .version => Config.versionValue
  | .ctrl => s.ctrlWord
  | .cmd => s.cmdWord
  | .srcAddr => s.srcAddr
  | .srcLen => s.srcLen
  | .dstAddr => s.dstAddr
  | .dstCap => s.dstCap
  | .status => s.statusWord
  | .dstLen => if s.busy then s.free 0 else s.dstLen
  | .symCount => if s.busy then s.free 0 else s.symCount
  | .maxLen => BitVec.ofNat 32 Config.maxLen
  | .reserved => 0#32

/-- A register read as the host sees it. It changes nothing the spec names (R60): `resp` takes the data, and the model's
counter moves past the free value. A STATUS read with DONE = 1 is how software observes a completion (R63, R235). -/
def State.readCsr (s : State) (c : Csr) : State :=
  { s.bump 1 with
    resp := some (.data (s.csrValue c))
    unseen := if c = .status ∧ s.done = true then none else s.unseen }

/-- A CTRL write (R25): SRST wins; else IRQ_EN takes bit 2, and START is accepted when BUSY = 0. -/
def State.writeCtrl (s : State) (v : Word) : State :=
  if v.getLsbD 1 then s.resetCore
  else if v.getLsbD 0 && !s.busy then ({ s with irqEn := v.getLsbD 2 } : State).acceptStart
  else { s with irqEn := v.getLsbD 2 }

/-- A STATUS write: bit 1 set clears DONE (R31, R216). -/
def State.writeStatus (s : State) (v : Word) : State := if v.getLsbD 1 then s.acknowledge else s

/-- A register write: the writable fields of R25 to R35; operands and CMD are kept while BUSY = 1 (R36). -/
def State.writeCsr (s : State) (c : Csr) (v : Word) : State :=
  match c with
  | .ctrl => s.writeCtrl v
  | .status => s.writeStatus v
  | .cmd => if s.busy then s else { s with cmdOp := opField v }
  | .srcAddr => if s.busy then s else { s with srcAddr := v }
  | .srcLen => if s.busy then s else { s with srcLen := v }
  | .dstAddr => if s.busy then s else { s with dstAddr := v }
  | .dstCap => if s.busy then s else { s with dstCap := v }
  | .id => s
  | .version => s
  | .dstLen => s
  | .symCount => s
  | .maxLen => s
  | .reserved => s

/-- An access that is not an aligned word in the window: a bus error on the port, no other effect (R59, U16). -/
def State.refuseAccess (s : State) : State := { s with resp := some .busError }

/-- A read access of the port (R59). -/
def State.portRead (s : State) (a : PortAccess) : State :=
  if a.wf s.platform.regBase then s.readCsr (csrAt (a.offset s.platform.regBase)) else s.refuseAccess

/-- A write access of the port (R59). -/
def State.portWrite (s : State) (a : PortAccess) (v : Word) : State :=
  if a.wf s.platform.regBase then
    { s.writeCsr (csrAt (a.offset s.platform.regBase)) v with resp := some .ack }
  else s.refuseAccess

/-- The aligned word access of a register. -/
def accessOf (base : Word) (c : Csr) : PortAccess := ⟨base + BitVec.ofNat 32 (csrOffset c), 4⟩

/-! ## The host and system memory (R225, spec/20_memory.md R57, R63, R66) -/

/-- A write of this address while the command runs is a region hazard (spec/70_reset_and_hazards.md R235). -/
def Latch.touches (l : Latch) (a : Nat) : Bool := l.src.contains a || l.dst.contains a

/-- The running command after another agent's write of address `a` (R66, U5). -/
def Running.noteWrite (r : Running) (a : Nat) : Running := { r with hazard := r.hazard || r.latch.touches a }

/-- A byte put in memory by software or another agent. -/
def State.putByte (s : State) (a : Nat) (b : Byte) : State :=
  { s with mem := s.mem.write a b, hostDirty := s.addDirty s.hostDirty ⟨a, 1⟩ }

/-- A store by software or another agent. Into a region of the running command it is a hazard; into a region of a completed
command that software has not yet seen to be done, it makes the outcome unspecified (R66, R235; log 10). -/
def State.hostStore (s : State) (a : Nat) (b : Byte) : State :=
  match s.running with
  | some r => { s.putByte a b with running := some (r.noteWrite a) }
  | none =>
    match s.unseen with
    | none => s.putByte a b
    | some l => if l.touches a then ((s.putByte a b).scrubWindow l).unspecifiedOutcome else s.putByte a b

/-- The interrupt is taken: software has observed the completion (R63, R225). -/
def State.takeIrq (s : State) : State := { s with unseen := none }

/-- A byte the host may not rely on: in the window while BUSY = 1 (R57, U1), written by the core and not yet visible on a
platform that is not coherent (R63, U11), or of a device with read side effects (R62, U7; log 14). -/
def State.hidden (s : State) (a : Nat) : Bool :=
  s.running.any (fun r => r.latch.dst.contains a) || s.stale s.dmaDirty ⟨a, 1⟩
    || s.platform.answers .read ⟨a, 1⟩ .sideEffect

/-- The byte a host load returns. -/
def State.hostByte (s : State) (a : Nat) : Byte := if s.hidden a then (s.free 0).setWidth 8 else s.mem.read a

/-- A load by software. -/
def State.hostLoad (s : State) (a : Nat) : State := { s.bump 1 with resp := some (.byte (s.hostByte a)) }

/-- The platform's cache maintenance: what each side wrote is visible to the other (R63, R66; log 8). -/
def State.maintain (s : State) : State := { s with hostDirty := [], dmaDirty := [] }

/-! ## Whose turn it is (spec/70_reset_and_hazards.md R239; log 2) -/

/-- The core moves when a command runs that is not stalled, unless the schedule gives the turn to a host that has
something to do. -/
def State.coreMoves (s : State) : Bool :=
  s.running.any (fun r => !r.stalled) && (s.inputs.isEmpty || s.schedule.head? != some .host)

/-- A turn of the schedule is used up while a command runs. -/
def State.takeTurn (s : State) : State := if s.busy then { s with schedule := s.schedule.tail } else s

/-- The host's next action. WAIT reads STATUS again until it sees DONE = 1, or waits for `irq` (R83); with no action queued
nothing happens (log 3). -/
def State.hostTurn (s : State) : State :=
  match s.inputs with
  | [] => s
  | .wait :: es => if s.done then ({ s with inputs := es } : State).readCsr .status else s.readCsr .status
  | .regWrite a v :: es => ({ s with inputs := es } : State).portWrite a v
  | .regRead a :: es => ({ s with inputs := es } : State).portRead a
  | .memWrite a b :: es => ({ s with inputs := es } : State).hostStore a.toNat b
  | .memRead a :: es => ({ s with inputs := es } : State).hostLoad a.toNat
  | .takeIrq :: es => if s.irq then ({ s with inputs := es } : State).takeIrq else s
  | .maintain :: es => ({ s with inputs := es } : State).maintain
  | .resetPin :: es => ({ s with inputs := es } : State).resetCore

/-! ## Program notation (R83, R84) -/

/-- WR <reg>, <value>. -/
def wr (base : Word) (c : Csr) (v : Word) : HostEvent := .regWrite (accessOf base c) v

/-- RUN <MNEMONIC>, sa, sl, da, dc. -/
def runSteps (base : Word) (i : Instr) (sa sl da dc : Word) (irqEn : Bool) : List HostEvent :=
  [wr base .srcAddr sa, wr base .srcLen sl, wr base .dstAddr da, wr base .dstCap dc, wr base .cmd (encode i),
   wr base .ctrl (1#32 ||| flagAt irqEn 2)]

/-- ACK. -/
def ackSteps (base : Word) : List HostEvent := [wr base .status 0x2#32]

/-- SRST. -/
def srstSteps (base : Word) : List HostEvent := [wr base .ctrl 0x2#32]

/-- MEM <addr>: <bytes>. DESIGN CHOICE (log 27): the address is counted modulo 2^32, so bytes past address 0xFFFF_FFFF go on at
address 0, where the spec is silent. -/
def memSteps : Word → List Byte → List HostEvent
  | _, [] => []
  | a, b :: bs => .memWrite a b :: memSteps (a + 1) bs

/-- A RUN is well formed when STATUS.BUSY = 0 at its first write (R84). -/
def State.runWellFormed (s : State) : Bool := !s.busy

end Sys2Proof.Machine
end

