-- ==== Sys2Proof/Machine/Step.lean ====
section
/-! DEFINITION. Step: one step of the machine. Either the core takes its turn and the running command completes, or the
host's next action happens (spec/70_reset_and_hazards.md R239; log 1, 2). -/

namespace Sys2Proof.Machine

/-- The core's turn: the latched opcode is decoded and its command runs; a reserved one completes with BAD_COMMAND
(spec/10_state.md R41, spec/40_frequency_model.md R100, spec/30_encoding.md R72). -/
def coreStep (s : State) : Host.Outcome State Fault Refusal :=
  match s.running with
  | none => .next s
  | some r =>
    match decodeOp r.latch.op with
    | .ok i => exec i s
    | .error _ => .next (s.rejectReserved r)

/-- One step. -/
def step (s : State) : Host.Outcome State Fault Refusal :=
  if s.coreMoves then coreStep s.takeTurn else .next s.takeTurn.hostTurn

/-- The state in which the very next step runs the command of the CMD word `w`: CMD is written with it and a START is
accepted on the operands the registers hold, with the core to move (R41; log 4). -/
def State.withFetchWord (s : State) (nbits w : Nat) : State :=
  ({ s with cmdOp := opField (BitVec.ofNat 32 (w % 2 ^ nbits)), schedule := [] } : State).acceptStart

end Sys2Proof.Machine
end

