-- ==== Sys2Proof/Safety.lean ====
section
/-! DEFINITION. Safety: the invariant of the machine, the conditions under which a command is undisturbed, and the few
measures of a Huffman tree that the obligations speak of. -/

namespace Sys2Proof.Machine

/-! ## The invariant -/

/-- What holds in every state a run reaches. -/
structure State.Inv (s : State) : Prop where
  /-- Memory has its canonical form. -/
  memory : s.mem.wf = true
  /-- While BUSY = 1 every other field of STATUS is 0 (spec/10_state.md R31, R41). -/
  busyAlone : s.busy = true → s.done = false ∧ s.empty = false ∧ s.errCode = .noError
  /-- Code 3 is never produced (spec/60_exceptions.md R204). -/
  noCodeThree : s.errCode ≠ .unsupportedAlphabet
  /-- EMPTY is the flag of a success without symbols (R31, R213). -/
  emptyIsSuccess : s.empty = true → s.errCode = .noError ∧ s.symCount = 0#32
  /-- Between an accepted START and completion the working state is as START left it (R40 for the values, log 15 for
  keeping them until the completing step). -/
  workFresh : ∀ r, s.running = some r → s.work = Work.init
  /-- An accepted START ends the wait for the completion before it (spec/70_reset_and_hazards.md R235; log 10). -/
  nothingUnseen : s.busy = true → s.unseen = none

/-- The bounds of the working state: none of it is sized by the input (spec/10_state.md R39, spec/41_huffman.md R129,
spec/42_arithmetic.md R152). -/
structure Work.Fits (w : Work) : Prop where
  freqTable  : w.freqTable.length ≤ 256 ∧ ∀ f ∈ w.freqTable, f ≤ 0x3FFFFFFF
  nodes      : w.nodes.length ≤ 511
  queue      : w.queue.length ≤ 256
  stack      : w.stack.length ≤ 256 ∧ ∀ e ∈ w.stack, e.2.length ≤ 255
  codes      : w.codes.length ≤ 256 ∧ ∀ p ∈ w.codes, 1 ≤ p.2.length ∧ p.2.length ≤ 255
  writer     : w.writer.count ≤ 7
  readIndex  : w.readIndex ≤ 8 * 2 ^ 32 + 32
  coder      : w.coder.low < 2 ^ 32 ∧ w.coder.high < 2 ^ 32 ∧ w.coder.value < 2 ^ 32 ∧ w.coder.pending < 2 ^ 35
  coderIndex : w.coderIndex ≤ 8 * 2 ^ 32 + 32

/-! ## Running a command -/

/-- The body of a command (spec/40_frequency_model.md R100, "Body_op"). -/
def bodyOf : Instr → List Byte → Nat → BodyResult
  | .freq => bodyFreq
  | .henc => bodyHenc
  | .hdec => bodyHdec
  | .hcodes => bodyHcodes
  | .aenc => bodyAenc
  | .adec => bodyAdec

/-- The command `r` runs, nobody disturbs its regions, its source is stable, and every source read is answered with data
(spec/20_memory.md R54, R66). -/
abbrev State.Undisturbed (s : State) (r : Running) : Prop :=
  s.running = some r ∧ s.unstable r = false ∧ s.dma .read r.latch.src = .ok

/-- Undisturbed, and past the checks that precede DMA (R100). -/
abbrev State.Admits (s : State) (i : Instr) (r : Running) : Prop := s.Undisturbed r ∧ preCheck i r.latch = none

/-- A result of this length fits the window and every write of it succeeds (R100, R205, R209). -/
abbrev State.Takes (s : State) (r : Running) (len : Nat) : Prop :=
  len ≤ r.latch.dc.toNat ∧ s.dma .write ⟨r.latch.da.toNat, len⟩ = .ok

/-- The state after a success with result `out` and symbol count `syms` (R56, R213); `w` is what the units leave of the
working state (R39), which software cannot see. -/
def State.success (s : State) (r : Running) (out : List Byte) (syms : Nat) (w : Work) : State :=
  ((s.storeResult r.latch out).setWork w).completeOk out.length syms

/-- What a command that ended with an error reports (spec/60_exceptions.md R212, R214). -/
abbrev State.FailedWith (s : State) (code : ErrCode) : Prop :=
  s.running = none ∧ s.done = true ∧ s.empty = false ∧ s.errCode = code ∧ s.dstLen = 0#32 ∧ s.symCount = 0#32

/-- From `s`, the command `r` has completed in `t` with an outcome that may be any (R66, R235, U5): DONE, a code other than 3
(R204), EMPTY in step with the code and SYM_COUNT, and no byte outside the window changed (R57). -/
abbrev State.EndsSomehow (s : State) (r : Running) (t : State) : Prop :=
  t.running = none ∧ t.done = true ∧ t.unseen = some r.latch ∧ t.errCode ≠ .unsupportedAlphabet ∧
    (t.empty = true ↔ t.errCode = .noError ∧ t.symCount = 0#32) ∧
    ∀ a, ¬ (r.latch.da.toNat ≤ a ∧ a < r.latch.da.toNat + r.latch.dc.toNat) → t.mem.read a = s.mem.read a

/-! ## Measures (spec/41_huffman.md R123, R125, R126, R128) -/

/-- The node that a path from a tree's root reaches: bit 0 goes to the left child, bit 1 to the right (R126). -/
def HuffTree.follow : HuffTree → Bits → Option HuffTree
  | t, [] => some t
  | .leaf _ _ _, _ :: _ => none
  | .node _ _ l _, false :: p => l.follow p
  | .node _ _ _ r, true :: p => r.follow p

/-- The number of nodes of a tree. -/
def HuffTree.nodes : HuffTree → Nat
  | .leaf _ _ _ => 1
  | .node _ _ l r => 1 + l.nodes + r.nodes

/-- The leaves of a tree as a frequency model, left to right. -/
def HuffTree.leaves : HuffTree → FreqModel
  | .leaf s f _ => [(s, f)]
  | .node _ _ l r => l.leaves ++ r.leaves

/-- The Kraft sum Σ 2^(−len) of a code table, times 2^255 (no codeword is longer than 255 bits: R128). -/
def kraftSum (t : CodeTable) : Nat := (t.map (fun p => 2 ^ (255 - p.2.length))).sum

/-! ## Measures of the arithmetic coder (spec/42_arithmetic.md R154, R166) -/

/-- The number of passes of the loop of R154 from these registers, of at most `n`. -/
def renormPasses : Nat → Coder → Nat
  | 0, _ => 0
  | n + 1, c =>
    match c.arm with
    | .exit => 0
    | a => 1 + renormPasses n (c.shift a)

/-- S of R166: the passes while encoding `src` from these registers. -/
def encodePasses (t : Nat) (part : List PartEntry) : Coder → List Byte → Nat
  | _, [] => 0
  | c, s :: src =>
    renormPasses Config.codeBits (c.narrow t (entryOf part s))
      + encodePasses t part (encodeSymbol t part (c, BitWriter.empty) s).1 src

end Sys2Proof.Machine
end

