-- ==== Sys2Proof/Certificates/Slice0/Obligations.lean ====
section
/-! DEFINITION. Obligations: the statements about the model, taken from the numbered rules of spec/. A docstring names the
rules; where a clause is the model's own choice it names the log entry. -/

open Sys2Proof Sys2Proof.Machine

/-! ## Commands and their words -/

/-- R70, R71: each command's CMD word has the reserved bits 0 and decodes to the command; so do words written out from
the opcode map, with the reserved bits 0 and with all of them 1. -/
def Obligations.CommandWordsDecode : Prop :=
  (∀ i : Instr, cmdWordCanonical (encode i) = true ∧ decode (encode i) = .ok i) ∧
  decode 0b00000000000000000000000000000001#32 = .ok .freq ∧
  decode 0b00000000000000000000000000000010#32 = .ok .henc ∧
  decode 0b11111111111111111111111111110011#32 = .ok .hdec ∧
  decode 0b00000000000000000000000000000100#32 = .ok .hcodes ∧
  decode 0b11111111111111111111111111110101#32 = .ok .aenc ∧
  decode 0b00000000000000000000000000000110#32 = .ok .adec ∧
  decode 0b00000000000000000000000000000000#32 = .error (.reservedOpcode 0#4) ∧
  decode 0b00000000000000000000000000001111#32 = .error (.reservedOpcode 15#4)

/-- R70, R71, R72, R85: only CMD[3:0] decides, and every word is a row of the map or a reserved opcode. -/
def Obligations.OpcodeMapDecodesEveryWord : Prop :=
  ∀ w : Word,
    (w.extractLsb' 0 4 = 1#4 → decode w = .ok .freq) ∧
    (w.extractLsb' 0 4 = 2#4 → decode w = .ok .henc) ∧
    (w.extractLsb' 0 4 = 3#4 → decode w = .ok .hdec) ∧
    (w.extractLsb' 0 4 = 4#4 → decode w = .ok .hcodes) ∧
    (w.extractLsb' 0 4 = 5#4 → decode w = .ok .aenc) ∧
    (w.extractLsb' 0 4 = 6#4 → decode w = .ok .adec) ∧
    (w.extractLsb' 0 4 = 0#4 ∨ 7#4 ≤ w.extractLsb' 0 4 →
      decode w = .error (.reservedOpcode (w.extractLsb' 0 4)))

/-! ## Steps -/

/-- R41, R100: when it is the core's turn, a step is the latched command's meaning, or the rejection of a reserved
opcode, at the state with one turn of the schedule used up. R59, R225, R83: when it is the host's, a step is its next
action: a register write or read at the port, a store, a load, the wait for DONE or for irq, cache maintenance, a reset.
The model's own: whose turn it is and the schedule (log 2), the queue of actions and the idle step (log 3), that a
maintenance makes everything visible (log 8), that taking irq observes the completion (log 10). -/
def Obligations.StepRunsTheLatchedCommand : Prop :=
  (∀ s : State,
    (s.coreMoves = true ↔
      ∃ r, s.running = some r ∧ r.stalled = false ∧ (s.inputs = [] ∨ s.schedule.head? ≠ some .host)) ∧
    (s.running = none → s.takeTurn = s) ∧
    (s.running ≠ none → s.takeTurn = { s with schedule := s.schedule.tail })) ∧
  (∀ (s : State) (r : Running), s.running = some r → s.coreMoves = true →
    (∀ i, decodeOp r.latch.op = .ok i → step s = exec i { s with schedule := s.schedule.tail }) ∧
    (∀ e, decodeOp r.latch.op = .error e →
      step s = .next (({ s with schedule := s.schedule.tail } : State).rejectReserved r))) ∧
  (∀ s : State, s.coreMoves = false →
    let t := s.takeTurn
    (s.inputs = [] → step s = .next t) ∧
    ∀ es : List HostEvent,
      let u : State := { t with inputs := es }
      (∀ a v, s.inputs = .regWrite a v :: es → step s = .next (u.portWrite a v)) ∧
      (∀ a, s.inputs = .regRead a :: es → step s = .next (u.portRead a)) ∧
      (∀ a b, s.inputs = .memWrite a b :: es → step s = .next (u.hostStore a.toNat b)) ∧
      (∀ a, s.inputs = .memRead a :: es → step s = .next (u.hostLoad a.toNat)) ∧
      (s.inputs = .wait :: es → s.done = true → step s = .next (u.readCsr .status)) ∧
      (s.inputs = .wait :: es → s.done = false → step s = .next (t.readCsr .status)) ∧
      (s.inputs = .takeIrq :: es → s.irq = true → step s = .next { u with unseen := none }) ∧
      (s.inputs = .takeIrq :: es → s.irq = false → step s = .next t) ∧
      (s.inputs = .maintain :: es → step s = .next { u with hostDirty := [], dmaDirty := [] }) ∧
      (s.inputs = .resetPin :: es → step s = .next u.resetCore))

/-- A state that `withFetchWord` makes runs exactly the command of the word (log 4). -/
def Obligations.FetchedWordRunsNext : Prop :=
  ∀ (s : State) (nbits w : Nat) (i : Instr), decodeTableWord nbits w = some i →
    step (s.withFetchWord nbits w) = exec i (s.withFetchWord nbits w)

/-- R64, R20, R224: between commands the core does nothing, so that memory changes only by the host's own store; with
nothing queued a step changes nothing (that a step then exists and is idle is the model's choice: log 3). An outcome
that a store makes unspecified before software has seen DONE is the store's effect (R235: log 10). -/
def Obligations.IdleCoreLeavesMemoryAlone : Prop :=
  ∀ s : State, s.running = none →
    (s.inputs = [] → step s = .next s) ∧
    (∃ s', step s = .next s' ∧ ((∀ a b es, s.inputs ≠ .memWrite a b :: es) → s'.mem = s.mem))

/-- R200, R239, R241: a running command that is not waiting for a DMA answer ends, is reset, or comes to wait for one
within as many steps as the schedule has turns, and one more (the finite schedule is the model's form of weak fairness:
log 2). It waits only on a platform that leaves some read of its source or some write of its window unanswered; on any
other it ends or is reset. -/
def Obligations.RunningCommandEnds : Prop :=
  ∀ (s : State) (r : Running), s.running = some r → r.stalled = false →
    ∃ (k : Nat) (s' : State), k ≤ s.schedule.length + 1 ∧ Host.Core.run Sys2Proof.core k s = .next s' ∧
      (s'.running = none ∨ ∃ q, s'.running = some q ∧ q.stalled = true ∧
        (s.platform.answers .read q.latch.src .never = true ∨ s.platform.answers .write q.latch.dst .never = true))

/-! ## Start, the register port, reset -/

/-- R41, R25, R40: an accepted START latches CMD.OP and the operand registers, re-initialises the working state, sets
STATUS to 0x0000_0001, takes IRQ_EN from the same write and changes nothing else. The model's choices: the stored
DST_LEN and SYM_COUNT stay, as reads of them are free while BUSY = 1 (log 25); it is noted whether some source byte is
not yet visible to DMA (log 8); the completion before is no longer waited for (log 10). -/
def Obligations.AcceptedStartLatchesOperands : Prop :=
  ∀ (s : State) (v : Word), s.running = none → v.getLsbD 1 = false → v.getLsbD 0 = true →
    s.writeCsr .ctrl v =
      { s with
        irqEn := v.getLsbD 2
        done := false
        empty := false
        errCode := .noError
        work := Work.init
        unseen := none
        running := some ⟨⟨s.cmdOp, s.srcAddr, s.srcLen, s.dstAddr, s.dstCap⟩, false,
          s.stale s.hostDirty ⟨s.srcAddr.toNat, s.srcLen.toNat⟩, false⟩ } ∧
    (s.writeCsr .ctrl v).statusWord = 0x00000001#32

/-- R36: while BUSY = 1, writes of CMD and of the operand registers and a START are ignored; IRQ_EN, SRST and the
acknowledgement still act, the last without effect as DONE is 0. R26 to R30: while BUSY = 0 the registers take what is
written, CMD its low four bits, and nothing else changes. R25, R215: a CTRL write without SRST and START then sets IRQ_EN
and nothing else; IRQ_EN = 0 masks irq and leaves DONE. -/
def Obligations.OperandWritesFollowBusy : Prop :=
  (∀ (s : State) (v : Word), s.busy = true →
    s.writeCsr .cmd v = s ∧ s.writeCsr .srcAddr v = s ∧ s.writeCsr .srcLen v = s ∧ s.writeCsr .dstAddr v = s ∧
    s.writeCsr .dstCap v = s ∧
    (v.getLsbD 1 = false → s.writeCsr .ctrl v = { s with irqEn := v.getLsbD 2 }) ∧
    (v.getLsbD 1 = true → s.writeCsr .ctrl v = s.resetCore) ∧
    (s.done = false → s.writeCsr .status v = s)) ∧
  (∀ (s : State) (v : Word), s.busy = false →
    s.writeCsr .srcAddr v = { s with srcAddr := v } ∧ s.writeCsr .srcLen v = { s with srcLen := v } ∧
    s.writeCsr .dstAddr v = { s with dstAddr := v } ∧ s.writeCsr .dstCap v = { s with dstCap := v } ∧
    s.writeCsr .cmd v = { s with cmdOp := v.extractLsb' 0 4 } ∧
    (s.writeCsr .cmd v).csrValue .cmd = v &&& 0x0000000F#32 ∧
    (v.getLsbD 1 = false → v.getLsbD 0 = false →
      s.writeCsr .ctrl v = { s with irqEn := v.getLsbD 2 } ∧
      (s.writeCsr .ctrl v).irq = (s.done && v.getLsbD 2) ∧ (s.writeCsr .ctrl v).done = s.done))

/-- R59, R22, R35, R60: an aligned word read of any slot of the window returns the register there and changes nothing
the spec names; a write acknowledges and acts on that register; any other access gets a bus error and has no effect. The
model's own: for a REG_BASE above 0xFFFF_FF00, where the spec is silent, that the window goes on at address 0 (log 9);
the port's response, the counter of free values (log 3, 6, 21), and that a STATUS read with DONE = 1 is how software
observes a completion (log 10). -/
def Obligations.PortAcceptsOnlyAlignedWords : Prop :=
  (∀ (s : State) (k : Nat) (v : Word), k < 64 →
    s.portRead ⟨s.platform.regBase + BitVec.ofNat 32 (4 * k), 4⟩ =
      { s with
        resp := some (.data (s.csrValue (csrAt (4 * k))))
        freeCtr := s.freeCtr + 1
        unseen := if csrAt (4 * k) = .status ∧ s.done = true then none else s.unseen } ∧
    s.portWrite ⟨s.platform.regBase + BitVec.ofNat 32 (4 * k), 4⟩ v =
      { s.writeCsr (csrAt (4 * k)) v with resp := some .ack }) ∧
  (∀ (s : State) (a : PortAccess) (v : Word),
    (a.bytes ≠ 4 ∨ (a.addr - s.platform.regBase).toNat % 4 ≠ 0 ∨ 256 ≤ (a.addr - s.platform.regBase).toNat) →
    s.portRead a = { s with resp := some .busError } ∧ s.portWrite a v = { s with resp := some .busError })

/-- R22 to R35: the map's offsets, the hardwired registers, the reserved slots, which read 0 and ignore writes, and what
a read of every other register returns; DST_LEN and SYM_COUNT with BUSY = 0. -/
def Obligations.RegisterMap : Prop :=
  (∀ k : Nat, 12 ≤ k → csrAt (4 * k) = .reserved) ∧
  ((List.range 12).map (fun k => csrAt (4 * k)) =
    [.id, .version, .ctrl, .cmd, .srcAddr, .srcLen, .dstAddr, .dstCap, .status, .dstLen, .symCount, .maxLen]) ∧
  (∀ (s : State) (v : Word),
    s.csrValue .id = 0x52414953#32 ∧ s.csrValue .version = 0x00010000#32 ∧ s.csrValue .maxLen = 0x3FFFFFFF#32 ∧
    s.csrValue .reserved = 0#32 ∧
    s.writeCsr .id v = s ∧ s.writeCsr .version v = s ∧ s.writeCsr .maxLen v = s ∧ s.writeCsr .reserved v = s ∧
    s.writeCsr .dstLen v = s ∧ s.writeCsr .symCount v = s) ∧
  (∀ s : State,
    s.csrValue .ctrl = (BitVec.ofBool s.irqEn).setWidth 32 <<< 2 ∧ s.csrValue .cmd = s.cmdOp.setWidth 32 ∧
    s.csrValue .srcAddr = s.srcAddr ∧ s.csrValue .srcLen = s.srcLen ∧ s.csrValue .dstAddr = s.dstAddr ∧
    s.csrValue .dstCap = s.dstCap ∧ s.csrValue .status = s.statusWord ∧
    (s.busy = false → s.csrValue .dstLen = s.dstLen ∧ s.csrValue .symCount = s.symCount))

/-- R31, R201: the fields of STATUS as a read returns them, and the numbers of the codes the model can report. -/
def Obligations.StatusFields : Prop :=
  (∀ s : State,
    s.statusWord.getLsbD 0 = s.running.isSome ∧ s.statusWord.getLsbD 1 = s.done ∧
    s.statusWord.getLsbD 2 = decide (s.statusWord.extractLsb' 8 4 ≠ 0#4) ∧ s.statusWord.getLsbD 3 = s.empty ∧
    s.statusWord.extractLsb' 4 4 = 0#4 ∧ s.statusWord.extractLsb' 8 4 = s.errCode.toBits ∧
    s.statusWord.extractLsb' 12 20 = 0#20) ∧
  ErrCode.noError.toBits = 0#4 ∧ ErrCode.modelParse.toBits = 1#4 ∧ ErrCode.truncated.toBits = 2#4 ∧
  ErrCode.outputOverflow.toBits = 4#4 ∧ ErrCode.length.toBits = 5#4 ∧ ErrCode.badCommand.toBits = 6#4 ∧
  ErrCode.badConfig.toBits = 7#4 ∧ ErrCode.busError.toBits = 8#4

/-- R216, R31: writing 1 to STATUS bit 1 clears DONE, so irq falls, and keeps ERR, EMPTY, ERRCODE, DST_LEN and SYM_COUNT
and everything else; writing 0 there does nothing. -/
def Obligations.AcknowledgeClearsOnlyDone : Prop :=
  ∀ (s : State) (v : Word),
    (v.getLsbD 1 = true → s.writeCsr .status v = { s with done := false } ∧ (s.writeCsr .status v).irq = false) ∧
    (v.getLsbD 1 = false → s.writeCsr .status v = s)

/-- R25, R232: a CTRL write with SRST set resets the core whatever its other bits are, as the reset input does; STATUS
and CTRL then read 0, and the port acknowledges the write. -/
def Obligations.SoftResetWins : Prop :=
  ∀ (s : State) (v : Word), v.getLsbD 1 = true →
    s.writeCsr .ctrl v = s.resetCore ∧ (s.writeCsr .ctrl v).statusWord = 0#32 ∧
    (s.writeCsr .ctrl v).ctrlWord = 0#32 ∧ (s.writeCsr .ctrl v).running = none ∧
    (s.portWrite ⟨s.platform.regBase + 0x08#32, 4⟩ v).resp = some .ack ∧
    (∀ es, s.inputs = .resetPin :: es → s.hostTurn = ({ s with inputs := es } : State).resetCore)

/-- R230, R44, R231: a reset gives every register its reset value, in every state, lowers irq and empties the working
state, with no command running. -/
def Obligations.ResetRegisterValues : Prop :=
  ∀ (s : State) (c : Csr),
    (s.resetCore.csrValue c =
      match c with
      | .id => 0x52414953#32
      | .version => 0x00010000#32
      | .maxLen => 0x3FFFFFFF#32
      | _ => 0#32) ∧
    s.resetCore.irq = false ∧ s.resetCore.running = none ∧ State.reset.csrValue c = s.resetCore.csrValue c ∧
    s.resetCore.work.freqTable = [] ∧ s.resetCore.work.nodes = [] ∧ s.resetCore.work.queue = [] ∧ s.resetCore.work.stack = [] ∧
    s.resetCore.work.codes = [] ∧ s.resetCore.work.writer.count = 0 ∧ s.resetCore.work.readIndex = 0

/-- R230, R233: a reset leaves memory as it is; if a command was running, bytes of its window may change and no other
byte does. -/
def Obligations.ResetKeepsMemory : Prop :=
  ∀ s : State,
    (s.running = none → s.resetCore.mem = s.mem) ∧
    (∀ r a, s.running = some r → ¬ (r.latch.da.toNat ≤ a ∧ a < r.latch.da.toNat + r.latch.dc.toNat) →
      s.resetCore.mem.read a = s.mem.read a)

/-! ## Invariant -/

/-- The invariant holds after reset. -/
def Obligations.InvAtReset : Prop := State.reset.Inv

/-- Every step keeps the invariant: STATUS stays consistent (R31, R41, R213) and code 3 is never produced (R204; after a
hazard that is the model's choice: log 10). The model's own: memory stays canonical (log 5), a running command's working
state is as START left it (R40 for the values, log 15 for keeping them), no completion is unobserved while BUSY (log
10). -/
def Obligations.EveryStepKeepsInv : Prop :=
  ∀ s s' : State, s.Inv → step s = .next s' → s'.Inv

/-- R39, R129: the working state never grows past its bounds, whatever the input length is; it is empty after reset. The
coder's registers stay P-bit values (R13, R152). Nor do the tree builder's collection and the codeword assigner's stack
and code table at any pass of their loops (R123, R126) on a well-formed model, and the assigner ends with an empty stack.
That the state after a success is what the units left is the model's choice (log 15). -/
def Obligations.WorkingStateStaysBounded : Prop :=
  State.reset.work.Fits ∧ (∀ s s' : State, s.work.Fits → step s = .next s' → s'.work.Fits) ∧
  ∀ m : FreqModel, FreqModel.wf m = true →
    (∀ k, (mergeLoop k m.length (leavesFrom 0 m)).length ≤ 256) ∧
    ∀ root, buildTree m = some root →
      root.store.length ≤ 511 ∧ (assign root).stack = [] ∧
      ∀ k, let a := (Assigner.start root).run k
        a.stack.length ≤ 256 ∧ (∀ e ∈ a.stack, e.2.length ≤ 255) ∧
        a.codes.length ≤ 256 ∧ (∀ p ∈ a.codes, p.2.length ≤ 255)

/-! ## Errors before any DMA access -/

/-- R72, R207: an accepted START with a reserved opcode completes with BAD_COMMAND; memory is untouched. That memory is
untouched is the model's reading (log 11), and so are the emptied working state (log 15) and the wait for software to
see DONE (log 10); a command with a hazard ends as `DisturbedCommandStillCompletes` says. -/
def Obligations.ReservedOpcodeCompletesWithBadCommand : Prop :=
  ∀ (s : State) (r : Running), s.running = some r → r.hazard = false →
    (r.latch.op = 0#4 ∨ 7#4 ≤ r.latch.op) →
    coreStep s = .next
      { s with
        running := none, work := Work.empty, unseen := some r.latch, done := true, empty := false,
        errCode := .badCommand, dstLen := 0#32, symCount := 0#32 }

/-- R52, R53, R208: a region that passes 2^32, or two regions of positive length that share a byte, end any command with
BAD_CONFIG; memory is untouched. That memory is untouched is the model's reading (log 11), and so are the emptied
working state (log 15) and the wait for software to see DONE (log 10); a command with a hazard ends as
`DisturbedCommandStillCompletes` says. -/
def Obligations.BadRegionsEndWithBadConfig : Prop :=
  ∀ (i : Instr) (s : State) (r : Running), s.running = some r → r.hazard = false →
    (2 ^ 32 < r.latch.sa.toNat + r.latch.sl.toNat ∨ 2 ^ 32 < r.latch.da.toNat + r.latch.dc.toNat ∨
      (0 < r.latch.sl.toNat ∧ 0 < r.latch.dc.toNat ∧ r.latch.sa.toNat < r.latch.da.toNat + r.latch.dc.toNat ∧
        r.latch.da.toNat < r.latch.sa.toNat + r.latch.sl.toNat)) →
    exec i s = .next
      { s with
        running := none, work := Work.empty, unseen := some r.latch, done := true, empty := false,
        errCode := .badConfig, dstLen := 0#32, symCount := 0#32 }

/-- R206: with valid regions, FREQ, HENC, HCODES and AENC end with LENGTH when sl > MAX_LEN, memory untouched; HDEC and
ADEC never report LENGTH; their total is bounded by MAX_LEN instead. That memory is untouched is the model's reading
(log 11), and so are the emptied working state (log 15) and the wait for software to see DONE (log 10); a command with a
hazard ends as `DisturbedCommandStillCompletes` says. -/
def Obligations.OverlongSourceEndsEncodersWithLength : Prop :=
  (∀ (i : Instr) (s : State) (r : Running), i = .freq ∨ i = .henc ∨ i = .hcodes ∨ i = .aenc →
    s.running = some r → r.hazard = false →
    r.latch.sa.toNat + r.latch.sl.toNat ≤ 2 ^ 32 → r.latch.da.toNat + r.latch.dc.toNat ≤ 2 ^ 32 →
    (r.latch.dc.toNat = 0 ∨ r.latch.da.toNat + r.latch.dc.toNat ≤ r.latch.sa.toNat ∨
      r.latch.sa.toNat + r.latch.sl.toNat ≤ r.latch.da.toNat) →
    0x3FFFFFFF < r.latch.sl.toNat →
    exec i s = .next
      { s with
        running := none, work := Work.empty, unseen := some r.latch, done := true, empty := false,
        errCode := .length, dstLen := 0#32, symCount := 0#32 }) ∧
  (∀ (i : Instr) (s s' : State) (r : Running), i = .hdec ∨ i = .adec → s.running = some r → r.hazard = false →
    exec i s = .next s' → s'.running = none → s'.errCode ≠ .length) ∧
  (∀ (src : List Byte) (ari : Bool) (h : Header), parseHeader src ari = .ok h → h.total ≤ 0x3FFFFFFF)

/-! ## Bus errors, capacity, outcomes -/

/-- R209, R54, R211: when the platform answers some source byte's read with a bus error (and answers every access), any
command past its first checks ends with BUS_ERROR, whatever the other source bytes are. R56: the same for a write of a
result byte. -/
def Obligations.BusErrorEndsTheCommand : Prop :=
  ∀ (i : Instr) (s : State) (r : Running) (a : Nat), s.running = some r → r.hazard = false →
    preCheck i r.latch = none → (∀ b ∈ s.platform.busRules, b.answer ≠ .never) →
    (r.latch.sa.toNat ≤ a → a < r.latch.sa.toNat + r.latch.sl.toNat →
      s.platform.answers .read ⟨a, 1⟩ .error = true →
      exec i s = .next (s.endWithError r .busError) ∧ (s.endWithError r .busError).FailedWith .busError) ∧
    (∀ out syms w, s.unstable r = false → s.dma .read r.latch.src = .ok →
      bodyOf i (s.source r.latch) r.latch.dc.toNat = .ok ⟨out, syms, w⟩ →
      out.length ≤ r.latch.dc.toNat → r.latch.da.toNat ≤ a → a < r.latch.da.toNat + out.length →
      s.platform.answers .write ⟨a, 1⟩ .error = true →
      exec i s = .next (s.endWithError r .busError) ∧ (s.endWithError r .busError).FailedWith .busError)

/-- R205, R211, R212: an encoder's result longer than dc is OUTPUT_OVERFLOW; a decoder whose header is bad is
MODEL_PARSE whatever dc is, and one whose total exceeds dc is OUTPUT_OVERFLOW whatever its payload is. -/
def Obligations.CapacityErrors : Prop :=
  ∀ (i : Instr) (s : State) (r : Running), s.Admits i r →
    (∀ out syms w, bodyOf i (s.source r.latch) r.latch.dc.toNat = .ok ⟨out, syms, w⟩ → r.latch.dc.toNat < out.length →
      exec i s = .next (s.endWithError r .outputOverflow)) ∧
    (i = .hdec ∨ i = .adec → ∀ e, parseHeader (s.source r.latch) (decide (i = .adec)) = .error e →
      exec i s = .next (s.endWithError r .modelParse)) ∧
    (i = .hdec ∨ i = .adec → ∀ h, parseHeader (s.source r.latch) (decide (i = .adec)) = .ok h →
      r.latch.dc.toNat < h.total → exec i s = .next (s.endWithError r .outputOverflow)) ∧
    (s.endWithError r .outputOverflow).FailedWith .outputOverflow ∧
    (s.endWithError r .modelParse).FailedWith .modelParse

/-- R202, R203, R204, R206: which codes a command whose regions nobody writes can complete with, also where its source
is stale or a device; code 3 is none of them. -/
def Obligations.OutcomeCodes : Prop :=
  ∀ (i : Instr) (s s' : State) (r : Running), s.running = some r → r.hazard = false →
    exec i s = .next s' → s'.running = none →
    (i = .hdec ∨ i = .adec →
      s'.errCode ∈ [.noError, .badConfig, .busError, .modelParse, .outputOverflow, .truncated]) ∧
    (i ≠ .hdec → i ≠ .adec → s'.errCode ∈ [.noError, .badConfig, .length, .busError, .outputOverflow])

/-- R212, R214: a command (one with a reserved opcode too) that completes with an error reports DST_LEN = SYM_COUNT = 0
and a STATUS of DONE, ERR and its code; BUSY and EMPTY are 0. -/
def Obligations.FailedCommandsReportNoOutput : Prop :=
  ∀ (s s' : State) (r : Running), s.running = some r → r.hazard = false →
    coreStep s = .next s' → s'.running = none → s'.errCode ≠ .noError →
    s'.dstLen = 0#32 ∧ s'.symCount = 0#32 ∧
    s'.statusWord = 0x00000006#32 ||| (s'.errCode.toBits.setWidth 32 <<< 8)

/-- R56, R213: a command that completes without an error has written exactly its body's result at da, has changed no
other byte, and reports its length, its symbol count, and EMPTY when there were no symbols. -/
def Obligations.SuccessStoresExactlyTheResult : Prop :=
  ∀ (i : Instr) (s s' : State) (r : Running), s.running = some r → s.unstable r = false →
    exec i s = .next s' → s'.running = none → s'.errCode = .noError →
    ∃ out syms w, bodyOf i (s.source r.latch) r.latch.dc.toNat = .ok ⟨out, syms, w⟩ ∧ out.length ≤ r.latch.dc.toNat ∧
      s'.mem.readBytes r.latch.da.toNat out.length = out ∧
      (∀ a, ¬ (r.latch.da.toNat ≤ a ∧ a < r.latch.da.toNat + out.length) → s'.mem.read a = s.mem.read a) ∧
      s'.dstLen = BitVec.ofNat 32 out.length ∧ s'.symCount = BitVec.ofNat 32 syms ∧
      s'.statusWord = (if syms = 0 then 0x0000000A#32 else 0x00000002#32)

/-- R215: at completion irq follows IRQ_EN, for a success and for an error alike. -/
def Obligations.CompletionRaisesIrq : Prop :=
  ∀ (i : Instr) (s s' : State), exec i s = .next s' → s'.running = none →
    s'.done = true ∧ s'.irq = s.irqEn

/-! ## Frames -/

/-- R20, R36, R41: FREQ, HENC, HDEC, HCODES, AENC and ADEC change no register but STATUS, DST_LEN and SYM_COUNT: IRQ_EN,
CMD and the operand registers keep their values, and so do the platform and, as the model's own fields, what the host
has written and has queued, the schedule and the port's response (log 2, 3, 8). A command that is still running (its DMA
access is not answered: log 13) has changed none of STATUS, DST_LEN and SYM_COUNT either; that the last two keep their
stored values, which a read while BUSY does not show, is the model's choice (log 25). -/
def Obligations.CommandsKeepTheOtherRegisters : Prop :=
  ∀ (i : Instr) (s s' : State), exec i s = .next s' →
    s'.irqEn = s.irqEn ∧ s'.cmdOp = s.cmdOp ∧ s'.srcAddr = s.srcAddr ∧ s'.srcLen = s.srcLen ∧
    s'.dstAddr = s.dstAddr ∧ s'.dstCap = s.dstCap ∧ s'.platform = s.platform ∧ s'.hostDirty = s.hostDirty ∧
    s'.inputs = s.inputs ∧ s'.schedule = s.schedule ∧ s'.resp = s.resp ∧
    (s'.running ≠ none → s'.done = s.done ∧ s'.empty = s.empty ∧ s'.errCode = s.errCode ∧ s'.dstLen = s.dstLen ∧
      s'.symCount = s.symCount)

/-- R51, R57: no command, however it ends and whoever disturbs it, changes a byte outside its window [da, da + dc). -/
def Obligations.NoByteOutsideTheWindowChanges : Prop :=
  ∀ (i : Instr) (s s' : State) (r : Running) (a : Nat), s.running = some r → exec i s = .next s' →
    ¬ (r.latch.da.toNat ≤ a ∧ a < r.latch.da.toNat + r.latch.dc.toNat) → s'.mem.read a = s.mem.read a

/-- R206, R208, R241: a command that ends before any DMA access leaves all of memory as it was (the model's reading of
R57: log 11), unless its regions were written while it ran (log 10); a command that is never answered has stored
nothing, as its window bytes are free to read while BUSY = 1 (the model's choice: log 12, 13). -/
def Obligations.NoDmaLeavesMemory : Prop :=
  ∀ (i : Instr) (s s' : State) (r : Running), s.running = some r → exec i s = .next s' →
    ((preCheck i r.latch ≠ none ∧ r.hazard = false) ∨ s'.running ≠ none) → s'.mem = s.mem

/-- R66, R235, R54, U5, U7, U11: a command whose regions were written while it ran, whose source is stale, or whose
source is a device with read side effects still completes when every read of the source and every write of the window is
answered (else it may wait: log 13), also with a reserved opcode, with a consistent STATUS and no byte outside its
window changed; its results are free values (log 8, 10, 14). What marks a command so is a store by another agent into
one of its regions, and no other store; after its completion and before software has seen DONE = 1 a store into one of
its regions makes the outcome unspecified (log 10) and any other store leaves it; once it is seen no store changes it.
-/
def Obligations.DisturbedCommandStillCompletes : Prop :=
  (∀ (i : Instr) (s : State) (r : Running), s.running = some r → s.unstable r = true →
    s.platform.answers .read r.latch.src .never = false → s.platform.answers .write r.latch.dst .never = false →
    ∃ s', exec i s = .next s' ∧ s.EndsSomehow r s') ∧
  (∀ (s : State) (r : Running), s.running = some r → r.hazard = true → (r.latch.op = 0#4 ∨ 7#4 ≤ r.latch.op) →
    ∃ s', coreStep s = .next s' ∧ s.EndsSomehow r s') ∧
  (∀ (s : State) (r : Running) (a : Nat) (b : Byte), s.running = some r →
    ((r.latch.sa.toNat ≤ a ∧ a < r.latch.sa.toNat + r.latch.sl.toNat) ∨
      (r.latch.da.toNat ≤ a ∧ a < r.latch.da.toNat + r.latch.dc.toNat)) →
    (s.hostStore a b).running = some { r with hazard := true } ∧
    (∀ c, (s.hostStore a b).mem.read c = if c = a then b else s.mem.read c)) ∧
  (∀ (s : State) (r : Running) (a : Nat) (b : Byte), s.running = some r →
    ¬ (r.latch.sa.toNat ≤ a ∧ a < r.latch.sa.toNat + r.latch.sl.toNat) →
    ¬ (r.latch.da.toNat ≤ a ∧ a < r.latch.da.toNat + r.latch.dc.toNat) →
    (s.hostStore a b).running = s.running ∧
    (∀ c, (s.hostStore a b).mem.read c = if c = a then b else s.mem.read c)) ∧
  (∀ (s : State) (l : Latch) (a : Nat) (b : Byte), s.running = none → s.unseen = some l →
    ¬ (l.sa.toNat ≤ a ∧ a < l.sa.toNat + l.sl.toNat) → ¬ (l.da.toNat ≤ a ∧ a < l.da.toNat + l.dc.toNat) →
    (s.hostStore a b).statusWord = s.statusWord ∧ (s.hostStore a b).dstLen = s.dstLen ∧
    (s.hostStore a b).symCount = s.symCount ∧ (s.hostStore a b).unseen = s.unseen ∧
    (∀ c, (s.hostStore a b).mem.read c = if c = a then b else s.mem.read c)) ∧
  (∀ (s : State) (l : Latch) (a : Nat) (b : Byte), s.running = none → s.unseen = some l →
    (s.hostStore a b).running = none ∧ (s.hostStore a b).done = s.done ∧
    (s.errCode ≠ .unsupportedAlphabet → (s.hostStore a b).errCode ≠ .unsupportedAlphabet) ∧
    (∀ c, ¬ (l.da.toNat ≤ c ∧ c < l.da.toNat + l.dc.toNat) →
      (s.hostStore a b).mem.read c = if c = a then b else s.mem.read c)) ∧
  (∀ (s : State) (a : Nat) (b : Byte), s.running = none → s.unseen = none →
    (s.hostStore a b).statusWord = s.statusWord ∧ (s.hostStore a b).dstLen = s.dstLen ∧
    (s.hostStore a b).symCount = s.symCount ∧
    (∀ c, (s.hostStore a b).mem.read c = if c = a then b else s.mem.read c))

/-- R225, R57, R63: a host load of a byte that no running command's window holds, that is no device and that is not
stale returns the byte of memory and changes nothing the spec names; any host load leaves memory and registers alone.
R63, R66, where DMA is not coherent: a result is not visible to the host, nor a host's store to DMA, until a maintenance
has run; a source is then not stale, and a host that runs one after a success reads the bytes the command wrote, as it
does without one where DMA is coherent. The model's own: the response and the moved counter (log 3, 21), what a
maintenance is (log 8). -/
def Obligations.HostLoadReturnsMemory : Prop :=
  (∀ (s : State) (a : Word) (es : List HostEvent), s.inputs = .memRead a :: es →
    ((s.platform.coherentDma = true ∨ ∀ q ∈ s.dmaDirty, ¬ (q.base ≤ a.toNat ∧ a.toNat < q.base + q.size)) →
      s.platform.answers .read ⟨a.toNat, 1⟩ .sideEffect = false →
      (∀ r, s.running = some r →
        ¬ (r.latch.da.toNat ≤ a.toNat ∧ a.toNat < r.latch.da.toNat + r.latch.dc.toNat)) →
      s.hostTurn =
        { s with inputs := es, resp := some (.byte (s.mem.read a.toNat)), freeCtr := s.freeCtr + 1 }) ∧
    ∃ b, s.hostTurn = { s with inputs := es, resp := some (.byte b), freeCtr := s.freeCtr + 1 }) ∧
  (∀ s : State, s.platform.coherentDma = false →
    (∀ a b, (s.hostStore a b).hostDirty = ⟨a, 1⟩ :: s.hostDirty) ∧
    (∀ r out syms w, (s.success r out syms w).dmaDirty = ⟨r.latch.da.toNat, out.length⟩ :: s.dmaDirty) ∧
    (∀ es, s.inputs = .maintain :: es →
      s.hostTurn = { s with inputs := es, hostDirty := [], dmaDirty := [] } ∧
      ∀ q : Region, s.hostTurn.stale s.hostTurn.hostDirty q = false)) ∧
  (∀ (s : State) (r : Running) (out : List Byte) (syms : Nat) (w : Work) (es : List HostEvent) (a : Word) (k : Nat),
    let t := s.success r out syms w
    k < out.length → a.toNat = r.latch.da.toNat + k → s.platform.answers .read ⟨a.toNat, 1⟩ .sideEffect = false →
    (∃ u v, step { t with inputs := .maintain :: .memRead a :: es } = .next u ∧ step u = .next v ∧
      v.resp = some (.byte (out.getD k 0#8))) ∧
    (s.platform.coherentDma = true →
      ∃ v, step { t with inputs := .memRead a :: es } = .next v ∧ v.resp = some (.byte (out.getD k 0#8))))

/-- R40, R101: the outcome of a command depends only on its latched operands, its source bytes and the platform: two
undisturbed states that agree on these complete with the same STATUS, DST_LEN, SYM_COUNT and, on success, result bytes,
whatever their registers, flags, working state, free values and other memory are. -/
def Obligations.OutcomeDependsOnlyOnTheSource : Prop :=
  ∀ (i : Instr) (s t s' t' : State) (r q : Running), s.Undisturbed r → t.Undisturbed q → r.latch = q.latch →
    s.platform = t.platform → s.source r.latch = t.source q.latch →
    exec i s = .next s' → exec i t = .next t' → s'.running = none → t'.running = none →
    s'.statusWord = t'.statusWord ∧ s'.dstLen = t'.dstLen ∧ s'.symCount = t'.symCount ∧
    (s'.errCode = .noError → ∀ k, k < s'.dstLen.toNat →
      s'.mem.read (r.latch.da.toNat + k) = t'.mem.read (r.latch.da.toNat + k))

/-! ## Frequency model and header -/

/-- R102, R103: BuildModel keeps exactly the symbols that occur, each with its number of occurrences, in strictly
ascending order; the counts add up to the length. -/
def Obligations.ModelCountsEverySymbol : Prop :=
  ∀ src : List Byte,
    (∀ s f, (s, f) ∈ buildModel src ↔ f = src.count s ∧ 1 ≤ f) ∧
    ((buildModel src).map (fun p => p.1.toNat)).Pairwise (· < ·) ∧
    FreqModel.total (buildModel src) = src.length ∧ (buildModel src).length ≤ 256

/-- R58, R74, R75, R76, R105: the bytes of a block's integer fields, most significant first: CNT at offset 0, SYM and
FRQ of record k at 2 + 5·k, SCNT of an arithmetic block at 2 + 5·n. -/
def Obligations.BlockFieldsAreBigEndian : Prop :=
  (∀ m : FreqModel, FreqModel.wf m = true →
    let b := serializeModel m
    (b.getD 0 0#8).toNat = m.length / 2 ^ 8 ∧ (b.getD 1 0#8).toNat = m.length % 2 ^ 8 ∧
    ∀ (k : Nat) (h : k < m.length),
      b.getD (2 + 5 * k) 0#8 = m[k].1 ∧
      (b.getD (3 + 5 * k) 0#8).toNat = m[k].2 / 2 ^ 24 ∧
      (b.getD (4 + 5 * k) 0#8).toNat = m[k].2 / 2 ^ 16 % 2 ^ 8 ∧
      (b.getD (5 + 5 * k) 0#8).toNat = m[k].2 / 2 ^ 8 % 2 ^ 8 ∧
      (b.getD (6 + 5 * k) 0#8).toNat = m[k].2 % 2 ^ 8) ∧
  (∀ (src : List Byte) (dc : Nat) (b : BodyOut), src.length ≤ 0x3FFFFFFF → bodyAenc src dc = .ok b →
    let p := 2 + 5 * (buildModel src).length
    (b.out.getD p 0#8).toNat = src.length / 2 ^ 24 ∧
    (b.out.getD (p + 1) 0#8).toNat = src.length / 2 ^ 16 % 2 ^ 8 ∧
    (b.out.getD (p + 2) 0#8).toNat = src.length / 2 ^ 8 % 2 ^ 8 ∧
    (b.out.getD (p + 3) 0#8).toNat = src.length % 2 ^ 8)

/-- R107: ParseHeader inverts the serializer: any well-formed model, with SCNT for ADEC, any valid padding marker and
any payload. -/
def Obligations.HeaderParsesBack : Prop :=
  ∀ (m : FreqModel) (ari : Bool) (pad : Nat) (payload : List Byte), FreqModel.wf m = true → pad ≤ 7 →
    (payload = [] → pad = 0) →
    parseHeader (serializeModel m ++ (if ari then bytesBE m.total 4 else []) ++ BitVec.ofNat 8 pad :: payload) ari =
      .ok ⟨m, m.total, payload, 8 * payload.length - pad⟩

/-- R106: a header that parses has passed checks (a) to (i): what it gives is a well-formed model with its total, and
the source is laid out as R75 and R76 say. -/
def Obligations.ParsedHeaderIsWellFormed : Prop :=
  ∀ (src : List Byte) (ari : Bool) (h : Header), parseHeader src ari = .ok h →
    FreqModel.wf h.model = true ∧ h.total = h.model.total ∧
    ∃ pad : Nat, pad ≤ 7 ∧ (h.payload = [] → pad = 0) ∧ h.nBits = 8 * h.payload.length - pad ∧
      src = serializeModel h.model ++ (if ari then bytesBE h.total 4 else []) ++ BitVec.ofNat 8 pad :: h.payload

/-! ## Bit stream -/

/-- R184, R180 to R183: the bits written are the bits read, and the next read is TRUNCATED; with the rule's example. -/
def Obligations.BitStreamRoundTrip : Prop :=
  (BitWriter.empty.appendAll [false, true, true, false, true, true, true, false, true, false, false, false, true, false,
    true, false, true, true, false, true, true, true, false]).flush = ([0x6E#8, 0x8A#8, 0xDC#8], 1) ∧
  ∀ bits : Bits,
    let f := (BitWriter.empty.appendAll bits).flush
    8 * f.1.length - f.2 = bits.length ∧
    (∀ (k : Nat) (h : k < bits.length),
      (BitReader.mk f.1 bits.length k).read = .ok (bits[k], ⟨f.1, bits.length, k + 1⟩)) ∧
    (BitReader.mk f.1 bits.length bits.length).read = .error .truncated

/-- R78, R181: PAD is 0 to 7, the payload has ceil(k/8) bytes, 8·bytes − PAD = k, and the low PAD bits of the last byte
are 0. -/
def Obligations.PaddingMarker : Prop :=
  ∀ bits : Bits,
    let f := (BitWriter.mk bits).flush
    f.2 = (8 - bits.length % 8) % 8 ∧ f.2 ≤ 7 ∧ f.1.length = (bits.length + 7) / 8 ∧ f.1.length * 8 = bits.length + f.2 ∧
    ∀ (b : Byte) (j : Nat), f.1.getLast? = some b → j < f.2 → b.getLsbD j = false

/-! ## Huffman engine -/

/-- R125, R123, R124: the tree of a well-formed model with n ≥ 1 symbols has 2n − 1 nodes, the model's total as its
frequency, the model's records as its leaves, and its root is the last node inserted, with index 2n − 2. -/
def Obligations.HuffmanTreeShape : Prop :=
  ∀ m : FreqModel, FreqModel.wf m = true → m ≠ [] →
    ∃ t, buildTree m = some t ∧ t.nodes = 2 * m.length - 1 ∧ t.freq = m.total ∧ t.idx = 2 * m.length - 2 ∧
      t.leaves.Perm m

/-- R121, R122, R123: the leaf at rank k has index k; a pass of the tree builder removes the node x that is smallest by
(freq, idx), then y, the smallest of the others, and puts in the parent with left child x, right child y, the sum of
their frequencies and the next index; nothing is lost. -/
def Obligations.SmallestNodeIsRemovedFirst : Prop :=
  (∀ (m : FreqModel) (k : Nat) (h : k < m.length),
    (leavesFrom 0 m).length = m.length ∧ (leavesFrom 0 m)[k]? = some (.leaf m[k].1 m[k].2 k)) ∧
  (∀ (a : HuffTree) (q : List HuffTree),
    ((popMin a q).1 :: (popMin a q).2).Perm (a :: q) ∧
    ∀ x ∈ (popMin a q).2, (popMin a q).1.freq < x.freq ∨
      ((popMin a q).1.freq = x.freq ∧ (popMin a q).1.idx ≤ x.idx)) ∧
  (∀ (next : Nat) (a b : HuffTree) (q : List HuffTree), ∃ x y rest,
    mergeTwo next a b q = .node (x.freq + y.freq) next x y :: rest ∧ (x :: y :: rest).Perm (a :: b :: q) ∧
    (∀ z ∈ y :: rest, x.freq < z.freq ∨ (x.freq = z.freq ∧ x.idx ≤ z.idx)) ∧
    (∀ z ∈ rest, y.freq < z.freq ∨ (y.freq = z.freq ∧ y.idx ≤ z.idx)))

/-- R126, R127, R128: the code table of a non-empty well-formed model gives every symbol a codeword of 1 to 255 bits, no
codeword is a beginning of another, and Kraft's sum is 1 for n ≥ 2 and 1/2 for n = 1 (both sides times 2^255). With
n ≥ 2 the tree's root is a node, and a codeword is the path from it to its symbol's leaf, 0 for left and 1 for right; the
only symbol of a model with n = 1 has the codeword 0. -/
def Obligations.CodeTableIsPrefixFreeAndFull : Prop :=
  ∀ m : FreqModel, FreqModel.wf m = true → m ≠ [] →
    ((codesOfModel m).map Prod.fst).Perm (m.map Prod.fst) ∧
    (∀ p ∈ codesOfModel m, 1 ≤ p.2.length ∧ p.2.length ≤ 255 ∧ codeOf (codesOfModel m) p.1 = p.2) ∧
    (∀ p ∈ codesOfModel m, ∀ q ∈ codesOfModel m, p.1 ≠ q.1 → ¬ p.2 <+: q.2) ∧
    (2 ≤ m.length → kraftSum (codesOfModel m) = 2 ^ 255) ∧ (m.length = 1 → kraftSum (codesOfModel m) = 2 ^ 254) ∧
    (∀ s f, m = [(s, f)] → codesOfModel m = [(s, [false])]) ∧
    (2 ≤ m.length → ∃ f i l r, buildTree m = some (.node f i l r) ∧
      ∀ p ∈ codesOfModel m, ∃ f' i', (HuffTree.node f i l r).follow p.2 = some (.leaf p.1 f' i'))

/-- R137, R130: N_bits is the sum of frequency times codeword length, and is below 8·T when every codeword is shorter
than 8 bits. -/
def Obligations.HuffmanPayloadLength : Prop :=
  ∀ src : List Byte, src.length ≤ 0x3FFFFFFF →
    (src.flatMap (codeOf (codesOfModel (buildModel src)))).length =
      ((buildModel src).map (fun p => p.2 * (codeOf (codesOfModel (buildModel src)) p.1).length)).sum ∧
    (src ≠ [] → (∀ p ∈ codesOfModel (buildModel src), p.2.length < 8) →
      (src.flatMap (codeOf (codesOfModel (buildModel src)))).length < 8 * src.length)

/-- R136: HDEC's body gives back what HENC's body encoded. -/
def Obligations.HuffmanRoundTrip : Prop :=
  ∀ (d : List Byte) (dc dc' : Nat), d.length ≤ 0x3FFFFFFF → d.length ≤ dc' →
    ∃ block w w', bodyHenc d dc = .ok ⟨block, d.length, w⟩ ∧ bodyHdec block dc' = .ok ⟨d, d.length, w'⟩

/-! ## Arithmetic engine -/

/-- R153, R154, R165: from any interval of width at least 1 the renormalization loop ends with no arm applying, so that
the range is above QTR, and the bounds stay P-bit values; it takes at most P passes (log 16). With T ≤ 2^30 − 1 and a
range above QTR, narrowing by a symbol of the partition gives a non-empty interval inside the old one. -/
def Obligations.IntervalNeverCollapses : Prop :=
  (∀ (c : Coder) (w : BitWriter), c.low ≤ c.high → c.high < 2 ^ 32 →
    let c' := (encodeRenorm 32 (c, w)).1
    c'.arm = .exit ∧ c'.low ≤ c'.high ∧ c'.high < 2 ^ 32 ∧ 2 ^ 30 < c'.high - c'.low + 1) ∧
  (∀ (m : FreqModel) (c : Coder) (e : PartEntry), FreqModel.wf m = true → e ∈ partition m →
    c.low ≤ c.high → c.high < 2 ^ 32 → 2 ^ 30 < c.high - c.low + 1 →
    c.low ≤ (c.narrow m.total e).low ∧ (c.narrow m.total e).low ≤ (c.narrow m.total e).high ∧
    (c.narrow m.total e).high ≤ c.high)

/-- R164, R161: after the initialisation low ≤ value ≤ high; while it holds, cum < T, exactly one entry of the partition
has cumLow ≤ cum < cumHigh, the search finds it, and the narrowed interval still holds the value; renormalizing keeps
that. -/
def Obligations.DecoderSearchNeverFails : Prop :=
  (∀ (r r' : BitReader) (c : Coder), decodeInit 32 Coder.start r = .ok (c, r') →
    c.low ≤ c.value ∧ c.value ≤ c.high ∧ c.high < 2 ^ 32 ∧ 2 ^ 30 < c.high - c.low + 1) ∧
  (∀ (m : FreqModel) (e0 : PartEntry) (es : List PartEntry) (c : Coder) (r : BitReader), FreqModel.wf m = true →
    partition m = e0 :: es → c.low ≤ c.value → c.value ≤ c.high → c.high < 2 ^ 32 → 2 ^ 30 < c.high - c.low + 1 →
    let e := searchFrom e0 es (c.cum m.total)
    let n := c.narrow m.total e
    c.cum m.total < m.total ∧ e ∈ partition m ∧ e.cumLow ≤ c.cum m.total ∧ c.cum m.total < e.cumHigh ∧
    (∀ e' ∈ partition m, e'.cumLow ≤ c.cum m.total → c.cum m.total < e'.cumHigh → e' = e) ∧
    n.low ≤ c.value ∧ c.value ≤ n.high ∧
    ∀ c' r', decodeRenorm 32 n r = .ok (c', r') →
      c'.low ≤ c'.value ∧ c'.value ≤ c'.high ∧ c'.high < 2 ^ 32 ∧ 2 ^ 30 < c'.high - c'.low + 1)

/-- R162: the decoder's bounds move exactly as the encoder's. -/
def Obligations.DecoderMirrorsEncoder : Prop :=
  ∀ (n : Nat) (c c' : Coder) (w : BitWriter) (r r' : BitReader), decodeRenorm n c r = .ok (c', r') →
    c'.low = (encodeRenorm n (c, w)).1.low ∧ c'.high = (encodeRenorm n (c, w)).1.high ∧
    r'.pos = r.pos + renormPasses n c

/-- R166: for an input with at least two different symbols the encoder emits S + 2 bits, S being the number of passes of
the renormalization loop. -/
def Obligations.EncoderBitBudget : Prop :=
  ∀ src : List Byte, src.length ≤ 0x3FFFFFFF → 2 ≤ (buildModel src).length →
    (arithmeticWriter (buildModel src) src).bits.length =
      encodePasses (FreqModel.total (buildModel src)) (partition (buildModel src)) Coder.start src + 2

/-- R168, R166: ADEC's body gives back what AENC's body encoded (so it is never TRUNCATED on it). -/
def Obligations.ArithmeticRoundTrip : Prop :=
  ∀ (d : List Byte) (dc dc' : Nat), d.length ≤ 0x3FFFFFFF → d.length ≤ dc' →
    ∃ block w w', bodyAenc d dc = .ok ⟨block, d.length, w⟩ ∧ bodyAdec block dc' = .ok ⟨d, d.length, w'⟩

/-! ## The six commands complete

What a success leaves of the working state software cannot see (R39, log 15): these statements say that there is one. -/

/-- R109, R81: FREQ writes the serialized model of its source, 2 + 5·n bytes. -/
def Obligations.FreqWritesTheModel : Prop :=
  ∀ (s : State) (r : Running), s.Admits .freq r →
    s.Takes r (2 + 5 * (buildModel (s.source r.latch)).length) →
    ∃ w, exec .freq s = .next (s.success r (serializeModel (buildModel (s.source r.latch))) r.latch.sl.toNat w)

/-- R130, R75, R80: HENC writes the header, the padding marker and the packed codewords of its source; the empty source
gives 00 00 00 (R79). -/
def Obligations.HencWritesTheBlock : Prop :=
  ∀ (s : State) (r : Running), s.Admits .henc r →
    let src := s.source r.latch
    let m := buildModel src
    let bits := src.flatMap (codeOf (codesOfModel m))
    s.Takes r (3 + 5 * m.length + (bits.length + 7) / 8) →
    ∃ w, exec .henc s =
      .next (s.success r (serializeModel m ++ BitVec.ofNat 8 ((8 - bits.length % 8) % 8) :: packBits bits)
        r.latch.sl.toNat w)

/-- R134, R82: HCODES writes CNT and, for each symbol present, SYM, LEN and its codeword padded to bytes. -/
def Obligations.HcodesWritesTheTable : Prop :=
  ∀ (s : State) (r : Running), s.Admits .hcodes r →
    let m := buildModel (s.source r.latch)
    let code := codeOf (codesOfModel m)
    s.Takes r (2 + (m.map (fun p => 2 + ((code p.1).length + 7) / 8)).sum) →
    ∃ w, exec .hcodes s =
      .next (s.success r
        (bytesBE m.length 2 ++
          m.flatMap (fun p => p.1 :: BitVec.ofNat 8 (code p.1).length :: packBits (code p.1)))
        r.latch.sl.toNat w)

/-- R158, R76, R80, R157: AENC writes the header, SCNT, the padding marker and the packed bits of the coder; with fewer
than two symbols there are no bits. -/
def Obligations.AencWritesTheBlock : Prop :=
  ∀ (s : State) (r : Running), s.Admits .aenc r →
    let src := s.source r.latch
    let m := buildModel src
    let bits := if m.length ≤ 1 then [] else (arithmeticWriter m src).bits
    s.Takes r (7 + 5 * m.length + (bits.length + 7) / 8) →
    ∃ w, exec .aenc s =
      .next (s.success r
        (serializeModel m ++ bytesBE r.latch.sl.toNat 4 ++ BitVec.ofNat 8 ((8 - bits.length % 8) % 8) :: packBits bits)
        r.latch.sl.toNat w)

/-- R131, R133, R136: HDEC on a source that begins with the block HENC makes of d writes d, whatever bytes follow. -/
def Obligations.HdecRestoresTheInput : Prop :=
  ∀ (s : State) (r : Running) (d block extra : List Byte) (w : Work), s.Admits .hdec r → d.length ≤ 0x3FFFFFFF →
    bodyHenc d 0 = .ok ⟨block, d.length, w⟩ → s.source r.latch = block ++ extra → s.Takes r d.length →
    ∃ w', exec .hdec s = .next (s.success r d d.length w')

/-- R131: HDEC has no invalid codeword: any valid header with at least T·n payload bits completes with T symbols of the
model, whatever the bits are. A payload that begins with the codewords of a list d of T symbols of the model, in
whatever numbers they occur, completes with d; with a model of one symbol T bits of any value are enough. -/
def Obligations.HdecCompletesOnAnyPayload : Prop :=
  ∀ (s : State) (r : Running) (h : Header), s.Admits .hdec r → parseHeader (s.source r.latch) false = .ok h →
    s.Takes r h.total →
    (h.total * h.model.length ≤ h.nBits →
      ∃ out w, out.length = h.total ∧ (∀ b ∈ out, b ∈ h.model.map Prod.fst) ∧
        exec .hdec s = .next (s.success r out h.total w)) ∧
    ∀ d : List Byte, d.length = h.total → (∀ b ∈ d, b ∈ h.model.map Prod.fst) →
      let bits := d.flatMap (codeOf (codesOfModel h.model))
      bits.length ≤ h.nBits →
      (2 ≤ h.model.length → ∀ (k : Nat) (hk : k < bits.length), streamBit h.payload k = bits[k]) →
      ∃ w, exec .hdec s = .next (s.success r d h.total w)

/-- R132, R212: HDEC ends with TRUNCATED when the payload is exhausted before T symbols: its N_bits bits stop inside the
codewords of some list d of T symbols of the header's model, in whatever numbers they occur; with a model of one symbol
fewer than T bits of any value do. The first clause says it of the block of an input, cut at any bit. -/
def Obligations.HdecTruncatedPayload : Prop :=
  (∀ (s : State) (r : Running) (d : List Byte) (k : Nat), s.Admits .hdec r → d.length ≤ 0x3FFFFFFF →
    k < (d.flatMap (codeOf (codesOfModel (buildModel d)))).length → d.length ≤ r.latch.dc.toNat →
    s.source r.latch =
      serializeModel (buildModel d) ++
        (BitVec.ofNat 8 ((8 - k % 8) % 8) ::
          packBits ((d.flatMap (codeOf (codesOfModel (buildModel d)))).take k)) →
    exec .hdec s = .next (s.endWithError r .truncated) ∧ (s.endWithError r .truncated).FailedWith .truncated) ∧
  (∀ (s : State) (r : Running) (h : Header) (d : List Byte), s.Admits .hdec r →
    parseHeader (s.source r.latch) false = .ok h → h.total ≤ r.latch.dc.toNat →
    d.length = h.total → (∀ b ∈ d, b ∈ h.model.map Prod.fst) →
    let bits := d.flatMap (codeOf (codesOfModel h.model))
    h.nBits < bits.length →
    (2 ≤ h.model.length → ∀ (k : Nat) (hk : k < bits.length), k < h.nBits → streamBit h.payload k = bits[k]) →
    exec .hdec s = .next (s.endWithError r .truncated) ∧ (s.endWithError r .truncated).FailedWith .truncated)

/-- R163, R168: ADEC on a source that begins with the block AENC makes of d writes d, whatever bytes follow. -/
def Obligations.AdecRestoresTheInput : Prop :=
  ∀ (s : State) (r : Running) (d block extra : List Byte) (w : Work), s.Admits .adec r → d.length ≤ 0x3FFFFFFF →
    bodyAenc d 0 = .ok ⟨block, d.length, w⟩ → s.source r.latch = block ++ extra → s.Takes r d.length →
    ∃ w', exec .adec s = .next (s.success r d d.length w')

/-- R164, R163: ADEC has no symbol it cannot find: any valid header with at least 32 + 32·T payload bits completes with
T symbols of the model, whatever the bits are. -/
def Obligations.AdecCompletesOnAnyPayload : Prop :=
  ∀ (s : State) (r : Running) (h : Header), s.Admits .adec r → parseHeader (s.source r.latch) true = .ok h →
    32 + 32 * h.total ≤ h.nBits → s.Takes r h.total →
    ∃ out w, out.length = h.total ∧ (∀ b ∈ out, b ∈ h.model.map Prod.fst) ∧
      exec .adec s = .next (s.success r out h.total w)

/-- R159, R160, R163: the arithmetic decoder's bit source gives the payload's bits, then P − 2 = 30 zeros, then
TRUNCATED, so that no run that succeeds reads past them. ADEC on a valid header with at least two symbols: its run with
as many zeros after the payload as it asks for (q has the payload's N_bits bits and zeros, m is where it ends) reads up
to some index; ADEC ends with TRUNCATED if that is past N_bits + 30, in the initialisation or at any symbol, and completes
with the run's output if it is not. With fewer than two payload bits the initialisation is TRUNCATED. -/
def Obligations.AdecTruncatedPayload : Prop :=
  (∀ r : BitReader,
    (r.pos < r.nBits → r.bitIn = .ok (streamBit r.payload r.pos, ⟨r.payload, r.nBits, r.pos + 1⟩)) ∧
    (r.nBits ≤ r.pos → r.pos < r.nBits + 30 → r.bitIn = .ok (false, ⟨r.payload, r.nBits, r.pos + 1⟩)) ∧
    (r.nBits + 30 ≤ r.pos → r.bitIn = .error .truncated)) ∧
  (∀ (t n : Nat) (e0 : PartEntry) (es : List PartEntry) (c c' : Coder) (r r' : BitReader) (out : List Byte),
    r.pos ≤ r.nBits + 30 → arithmeticSymbols t e0 es n c r = .ok (out, c', r') →
    r'.payload = r.payload ∧ r'.nBits = r.nBits ∧ r'.pos ≤ r.nBits + 30) ∧
  (∀ (s : State) (r : Running) (h : Header), s.Admits .adec r → parseHeader (s.source r.latch) true = .ok h →
    2 ≤ h.model.length → h.total ≤ r.latch.dc.toNat →
    (s.endWithError r .truncated).FailedWith .truncated ∧
    (h.nBits < 2 → exec .adec s = .next (s.endWithError r .truncated)) ∧
    ∀ (q : List Byte) (m : Nat) (e0 : PartEntry) (es : List PartEntry), partition h.model = e0 :: es →
      (∀ k, streamBit q k = (decide (k < h.nBits) && streamBit h.payload k)) →
      h.nBits ≤ m → 32 + 32 * h.total ≤ m →
      ∃ c c' r1 r2 out, decodeInit 32 Coder.start ⟨q, m, 0⟩ = .ok (c, r1) ∧
        arithmeticSymbols h.total e0 es h.total c r1 = .ok (out, c', r2) ∧
        (h.nBits + 30 < r2.pos → exec .adec s = .next (s.endWithError r .truncated)) ∧
        (r2.pos ≤ h.nBits + 30 → s.Takes r h.total → ∃ w, exec .adec s = .next (s.success r out h.total w)))

/-- R79, R210: with an empty source the encoders write their empty blocks, HDEC and ADEC decode those to nothing, and
STATUS reads DONE and EMPTY. -/
def Obligations.EmptyInputIsASuccess : Prop :=
  ∀ (i : Instr) (s : State) (r : Running) (src out : List Byte), s.Admits i r → s.source r.latch = src →
    (i, src, out) ∈
      ([(.freq, [], [0#8, 0#8]), (.hcodes, [], [0#8, 0#8]), (.henc, [], [0#8, 0#8, 0#8]),
        (.aenc, [], [0#8, 0#8, 0#8, 0#8, 0#8, 0#8, 0#8]), (.hdec, [0#8, 0#8, 0#8], []),
        (.adec, [0#8, 0#8, 0#8, 0#8, 0#8, 0#8, 0#8], [])] : List (Instr × List Byte × List Byte)) →
    s.Takes r out.length →
    ∃ w, exec i s = .next (s.success r out 0 w) ∧ (s.success r out 0 w).statusWord = 0x0000000A#32
end

