-- ==== Sys2Proof/Laws/State.lean ====
section
/-! SUPPORT. Laws.State: what each update of State leaves in each field, so that no proof unfolds an update. -/

namespace Sys2Proof.Machine

/-! ## bump -/

@[simp] theorem bump_irqEn (s : State) (n : Nat) : (s.bump n).irqEn = s.irqEn := rfl
@[simp] theorem bump_cmdOp (s : State) (n : Nat) : (s.bump n).cmdOp = s.cmdOp := rfl
@[simp] theorem bump_srcAddr (s : State) (n : Nat) : (s.bump n).srcAddr = s.srcAddr := rfl
@[simp] theorem bump_srcLen (s : State) (n : Nat) : (s.bump n).srcLen = s.srcLen := rfl
@[simp] theorem bump_dstAddr (s : State) (n : Nat) : (s.bump n).dstAddr = s.dstAddr := rfl
@[simp] theorem bump_dstCap (s : State) (n : Nat) : (s.bump n).dstCap = s.dstCap := rfl
@[simp] theorem bump_done (s : State) (n : Nat) : (s.bump n).done = s.done := rfl
@[simp] theorem bump_empty (s : State) (n : Nat) : (s.bump n).empty = s.empty := rfl
@[simp] theorem bump_errCode (s : State) (n : Nat) : (s.bump n).errCode = s.errCode := rfl
@[simp] theorem bump_dstLen (s : State) (n : Nat) : (s.bump n).dstLen = s.dstLen := rfl
@[simp] theorem bump_symCount (s : State) (n : Nat) : (s.bump n).symCount = s.symCount := rfl
@[simp] theorem bump_running (s : State) (n : Nat) : (s.bump n).running = s.running := rfl
@[simp] theorem bump_work (s : State) (n : Nat) : (s.bump n).work = s.work := rfl
@[simp] theorem bump_unseen (s : State) (n : Nat) : (s.bump n).unseen = s.unseen := rfl
@[simp] theorem bump_mem (s : State) (n : Nat) : (s.bump n).mem = s.mem := rfl
@[simp] theorem bump_platform (s : State) (n : Nat) : (s.bump n).platform = s.platform := rfl
@[simp] theorem bump_hostDirty (s : State) (n : Nat) : (s.bump n).hostDirty = s.hostDirty := rfl
@[simp] theorem bump_dmaDirty (s : State) (n : Nat) : (s.bump n).dmaDirty = s.dmaDirty := rfl
@[simp] theorem bump_inputs (s : State) (n : Nat) : (s.bump n).inputs = s.inputs := rfl
@[simp] theorem bump_schedule (s : State) (n : Nat) : (s.bump n).schedule = s.schedule := rfl
@[simp] theorem bump_resp (s : State) (n : Nat) : (s.bump n).resp = s.resp := rfl
@[simp] theorem bump_freeCtr (s : State) (n : Nat) : (s.bump n).freeCtr = s.freeCtr + n := rfl

/-! ## storeResult -/

@[simp] theorem storeResult_irqEn (s : State) (l : Latch) (out : List Byte) : (s.storeResult l out).irqEn = s.irqEn := rfl
@[simp] theorem storeResult_cmdOp (s : State) (l : Latch) (out : List Byte) : (s.storeResult l out).cmdOp = s.cmdOp := rfl
@[simp] theorem storeResult_srcAddr (s : State) (l : Latch) (out : List Byte) : (s.storeResult l out).srcAddr = s.srcAddr := rfl
@[simp] theorem storeResult_srcLen (s : State) (l : Latch) (out : List Byte) : (s.storeResult l out).srcLen = s.srcLen := rfl
@[simp] theorem storeResult_dstAddr (s : State) (l : Latch) (out : List Byte) : (s.storeResult l out).dstAddr = s.dstAddr := rfl
@[simp] theorem storeResult_dstCap (s : State) (l : Latch) (out : List Byte) : (s.storeResult l out).dstCap = s.dstCap := rfl
@[simp] theorem storeResult_done (s : State) (l : Latch) (out : List Byte) : (s.storeResult l out).done = s.done := rfl
@[simp] theorem storeResult_empty (s : State) (l : Latch) (out : List Byte) : (s.storeResult l out).empty = s.empty := rfl
@[simp] theorem storeResult_errCode (s : State) (l : Latch) (out : List Byte) : (s.storeResult l out).errCode = s.errCode := rfl
@[simp] theorem storeResult_dstLen (s : State) (l : Latch) (out : List Byte) : (s.storeResult l out).dstLen = s.dstLen := rfl
@[simp] theorem storeResult_symCount (s : State) (l : Latch) (out : List Byte) : (s.storeResult l out).symCount = s.symCount := rfl
@[simp] theorem storeResult_running (s : State) (l : Latch) (out : List Byte) : (s.storeResult l out).running = s.running := rfl
@[simp] theorem storeResult_work (s : State) (l : Latch) (out : List Byte) : (s.storeResult l out).work = s.work := rfl
@[simp] theorem storeResult_unseen (s : State) (l : Latch) (out : List Byte) : (s.storeResult l out).unseen = s.unseen := rfl
@[simp] theorem storeResult_mem (s : State) (l : Latch) (out : List Byte) : (s.storeResult l out).mem = s.mem.writeBytes l.da.toNat out := rfl
@[simp] theorem storeResult_platform (s : State) (l : Latch) (out : List Byte) : (s.storeResult l out).platform = s.platform := rfl
@[simp] theorem storeResult_hostDirty (s : State) (l : Latch) (out : List Byte) : (s.storeResult l out).hostDirty = s.hostDirty := rfl
@[simp] theorem storeResult_dmaDirty (s : State) (l : Latch) (out : List Byte) : (s.storeResult l out).dmaDirty = s.addDirty s.dmaDirty ⟨l.da.toNat, out.length⟩ := rfl
@[simp] theorem storeResult_inputs (s : State) (l : Latch) (out : List Byte) : (s.storeResult l out).inputs = s.inputs := rfl
@[simp] theorem storeResult_schedule (s : State) (l : Latch) (out : List Byte) : (s.storeResult l out).schedule = s.schedule := rfl
@[simp] theorem storeResult_resp (s : State) (l : Latch) (out : List Byte) : (s.storeResult l out).resp = s.resp := rfl
@[simp] theorem storeResult_freeCtr (s : State) (l : Latch) (out : List Byte) : (s.storeResult l out).freeCtr = s.freeCtr := rfl

/-! ## setWork -/

@[simp] theorem setWork_irqEn (s : State) (w : Work) : (s.setWork w).irqEn = s.irqEn := rfl
@[simp] theorem setWork_cmdOp (s : State) (w : Work) : (s.setWork w).cmdOp = s.cmdOp := rfl
@[simp] theorem setWork_srcAddr (s : State) (w : Work) : (s.setWork w).srcAddr = s.srcAddr := rfl
@[simp] theorem setWork_srcLen (s : State) (w : Work) : (s.setWork w).srcLen = s.srcLen := rfl
@[simp] theorem setWork_dstAddr (s : State) (w : Work) : (s.setWork w).dstAddr = s.dstAddr := rfl
@[simp] theorem setWork_dstCap (s : State) (w : Work) : (s.setWork w).dstCap = s.dstCap := rfl
@[simp] theorem setWork_done (s : State) (w : Work) : (s.setWork w).done = s.done := rfl
@[simp] theorem setWork_empty (s : State) (w : Work) : (s.setWork w).empty = s.empty := rfl
@[simp] theorem setWork_errCode (s : State) (w : Work) : (s.setWork w).errCode = s.errCode := rfl
@[simp] theorem setWork_dstLen (s : State) (w : Work) : (s.setWork w).dstLen = s.dstLen := rfl
@[simp] theorem setWork_symCount (s : State) (w : Work) : (s.setWork w).symCount = s.symCount := rfl
@[simp] theorem setWork_running (s : State) (w : Work) : (s.setWork w).running = s.running := rfl
@[simp] theorem setWork_work (s : State) (w : Work) : (s.setWork w).work = w := rfl
@[simp] theorem setWork_unseen (s : State) (w : Work) : (s.setWork w).unseen = s.unseen := rfl
@[simp] theorem setWork_mem (s : State) (w : Work) : (s.setWork w).mem = s.mem := rfl
@[simp] theorem setWork_platform (s : State) (w : Work) : (s.setWork w).platform = s.platform := rfl
@[simp] theorem setWork_hostDirty (s : State) (w : Work) : (s.setWork w).hostDirty = s.hostDirty := rfl
@[simp] theorem setWork_dmaDirty (s : State) (w : Work) : (s.setWork w).dmaDirty = s.dmaDirty := rfl
@[simp] theorem setWork_inputs (s : State) (w : Work) : (s.setWork w).inputs = s.inputs := rfl
@[simp] theorem setWork_schedule (s : State) (w : Work) : (s.setWork w).schedule = s.schedule := rfl
@[simp] theorem setWork_resp (s : State) (w : Work) : (s.setWork w).resp = s.resp := rfl
@[simp] theorem setWork_freeCtr (s : State) (w : Work) : (s.setWork w).freeCtr = s.freeCtr := rfl

/-! ## scrubWindow -/

@[simp] theorem scrubWindow_irqEn (s : State) (l : Latch) : (s.scrubWindow l).irqEn = s.irqEn := rfl
@[simp] theorem scrubWindow_cmdOp (s : State) (l : Latch) : (s.scrubWindow l).cmdOp = s.cmdOp := rfl
@[simp] theorem scrubWindow_srcAddr (s : State) (l : Latch) : (s.scrubWindow l).srcAddr = s.srcAddr := rfl
@[simp] theorem scrubWindow_srcLen (s : State) (l : Latch) : (s.scrubWindow l).srcLen = s.srcLen := rfl
@[simp] theorem scrubWindow_dstAddr (s : State) (l : Latch) : (s.scrubWindow l).dstAddr = s.dstAddr := rfl
@[simp] theorem scrubWindow_dstCap (s : State) (l : Latch) : (s.scrubWindow l).dstCap = s.dstCap := rfl
@[simp] theorem scrubWindow_done (s : State) (l : Latch) : (s.scrubWindow l).done = s.done := rfl
@[simp] theorem scrubWindow_empty (s : State) (l : Latch) : (s.scrubWindow l).empty = s.empty := rfl
@[simp] theorem scrubWindow_errCode (s : State) (l : Latch) : (s.scrubWindow l).errCode = s.errCode := rfl
@[simp] theorem scrubWindow_dstLen (s : State) (l : Latch) : (s.scrubWindow l).dstLen = s.dstLen := rfl
@[simp] theorem scrubWindow_symCount (s : State) (l : Latch) : (s.scrubWindow l).symCount = s.symCount := rfl
@[simp] theorem scrubWindow_running (s : State) (l : Latch) : (s.scrubWindow l).running = s.running := rfl
@[simp] theorem scrubWindow_work (s : State) (l : Latch) : (s.scrubWindow l).work = s.work := rfl
@[simp] theorem scrubWindow_unseen (s : State) (l : Latch) : (s.scrubWindow l).unseen = s.unseen := rfl
@[simp] theorem scrubWindow_mem (s : State) (l : Latch) : (s.scrubWindow l).mem = s.mem.writeBytes l.da.toNat (s.freeBytes l.windowSize) := rfl
@[simp] theorem scrubWindow_platform (s : State) (l : Latch) : (s.scrubWindow l).platform = s.platform := rfl
@[simp] theorem scrubWindow_hostDirty (s : State) (l : Latch) : (s.scrubWindow l).hostDirty = s.hostDirty := rfl
@[simp] theorem scrubWindow_dmaDirty (s : State) (l : Latch) : (s.scrubWindow l).dmaDirty = s.addDirty s.dmaDirty l.dst := rfl
@[simp] theorem scrubWindow_inputs (s : State) (l : Latch) : (s.scrubWindow l).inputs = s.inputs := rfl
@[simp] theorem scrubWindow_schedule (s : State) (l : Latch) : (s.scrubWindow l).schedule = s.schedule := rfl
@[simp] theorem scrubWindow_resp (s : State) (l : Latch) : (s.scrubWindow l).resp = s.resp := rfl
@[simp] theorem scrubWindow_freeCtr (s : State) (l : Latch) : (s.scrubWindow l).freeCtr = s.freeCtr + l.windowSize + 1 := rfl

/-! ## acceptStart -/

@[simp] theorem acceptStart_irqEn (s : State) : s.acceptStart.irqEn = s.irqEn := rfl
@[simp] theorem acceptStart_cmdOp (s : State) : s.acceptStart.cmdOp = s.cmdOp := rfl
@[simp] theorem acceptStart_srcAddr (s : State) : s.acceptStart.srcAddr = s.srcAddr := rfl
@[simp] theorem acceptStart_srcLen (s : State) : s.acceptStart.srcLen = s.srcLen := rfl
@[simp] theorem acceptStart_dstAddr (s : State) : s.acceptStart.dstAddr = s.dstAddr := rfl
@[simp] theorem acceptStart_dstCap (s : State) : s.acceptStart.dstCap = s.dstCap := rfl
@[simp] theorem acceptStart_done (s : State) : s.acceptStart.done = false := rfl
@[simp] theorem acceptStart_empty (s : State) : s.acceptStart.empty = false := rfl
@[simp] theorem acceptStart_errCode (s : State) : s.acceptStart.errCode = .noError := rfl
@[simp] theorem acceptStart_dstLen (s : State) : s.acceptStart.dstLen = s.dstLen := rfl
@[simp] theorem acceptStart_symCount (s : State) : s.acceptStart.symCount = s.symCount := rfl
@[simp] theorem acceptStart_running (s : State) : s.acceptStart.running = some ⟨s.latchOperands, false, s.stale s.hostDirty s.latchOperands.src, false⟩ := rfl
@[simp] theorem acceptStart_work (s : State) : s.acceptStart.work = Work.init := rfl
@[simp] theorem acceptStart_unseen (s : State) : s.acceptStart.unseen = none := rfl
@[simp] theorem acceptStart_mem (s : State) : s.acceptStart.mem = s.mem := rfl
@[simp] theorem acceptStart_platform (s : State) : s.acceptStart.platform = s.platform := rfl
@[simp] theorem acceptStart_hostDirty (s : State) : s.acceptStart.hostDirty = s.hostDirty := rfl
@[simp] theorem acceptStart_dmaDirty (s : State) : s.acceptStart.dmaDirty = s.dmaDirty := rfl
@[simp] theorem acceptStart_inputs (s : State) : s.acceptStart.inputs = s.inputs := rfl
@[simp] theorem acceptStart_schedule (s : State) : s.acceptStart.schedule = s.schedule := rfl
@[simp] theorem acceptStart_resp (s : State) : s.acceptStart.resp = s.resp := rfl
@[simp] theorem acceptStart_freeCtr (s : State) : s.acceptStart.freeCtr = s.freeCtr := rfl

/-! ## completeErr -/

@[simp] theorem completeErr_irqEn (s : State) (code : ErrCode) : (s.completeErr code).irqEn = s.irqEn := rfl
@[simp] theorem completeErr_cmdOp (s : State) (code : ErrCode) : (s.completeErr code).cmdOp = s.cmdOp := rfl
@[simp] theorem completeErr_srcAddr (s : State) (code : ErrCode) : (s.completeErr code).srcAddr = s.srcAddr := rfl
@[simp] theorem completeErr_srcLen (s : State) (code : ErrCode) : (s.completeErr code).srcLen = s.srcLen := rfl
@[simp] theorem completeErr_dstAddr (s : State) (code : ErrCode) : (s.completeErr code).dstAddr = s.dstAddr := rfl
@[simp] theorem completeErr_dstCap (s : State) (code : ErrCode) : (s.completeErr code).dstCap = s.dstCap := rfl
@[simp] theorem completeErr_done (s : State) (code : ErrCode) : (s.completeErr code).done = true := rfl
@[simp] theorem completeErr_empty (s : State) (code : ErrCode) : (s.completeErr code).empty = false := rfl
@[simp] theorem completeErr_errCode (s : State) (code : ErrCode) : (s.completeErr code).errCode = code := rfl
@[simp] theorem completeErr_dstLen (s : State) (code : ErrCode) : (s.completeErr code).dstLen = 0#32 := rfl
@[simp] theorem completeErr_symCount (s : State) (code : ErrCode) : (s.completeErr code).symCount = 0#32 := rfl
@[simp] theorem completeErr_running (s : State) (code : ErrCode) : (s.completeErr code).running = none := rfl
@[simp] theorem completeErr_work (s : State) (code : ErrCode) : (s.completeErr code).work = Work.empty := rfl
@[simp] theorem completeErr_unseen (s : State) (code : ErrCode) : (s.completeErr code).unseen = s.completing := rfl
@[simp] theorem completeErr_mem (s : State) (code : ErrCode) : (s.completeErr code).mem = s.mem := rfl
@[simp] theorem completeErr_platform (s : State) (code : ErrCode) : (s.completeErr code).platform = s.platform := rfl
@[simp] theorem completeErr_hostDirty (s : State) (code : ErrCode) : (s.completeErr code).hostDirty = s.hostDirty := rfl
@[simp] theorem completeErr_dmaDirty (s : State) (code : ErrCode) : (s.completeErr code).dmaDirty = s.dmaDirty := rfl
@[simp] theorem completeErr_inputs (s : State) (code : ErrCode) : (s.completeErr code).inputs = s.inputs := rfl
@[simp] theorem completeErr_schedule (s : State) (code : ErrCode) : (s.completeErr code).schedule = s.schedule := rfl
@[simp] theorem completeErr_resp (s : State) (code : ErrCode) : (s.completeErr code).resp = s.resp := rfl
@[simp] theorem completeErr_freeCtr (s : State) (code : ErrCode) : (s.completeErr code).freeCtr = s.freeCtr := rfl

/-! ## completeOk -/

@[simp] theorem completeOk_irqEn (s : State) (len syms : Nat) : (s.completeOk len syms).irqEn = s.irqEn := rfl
@[simp] theorem completeOk_cmdOp (s : State) (len syms : Nat) : (s.completeOk len syms).cmdOp = s.cmdOp := rfl
@[simp] theorem completeOk_srcAddr (s : State) (len syms : Nat) : (s.completeOk len syms).srcAddr = s.srcAddr := rfl
@[simp] theorem completeOk_srcLen (s : State) (len syms : Nat) : (s.completeOk len syms).srcLen = s.srcLen := rfl
@[simp] theorem completeOk_dstAddr (s : State) (len syms : Nat) : (s.completeOk len syms).dstAddr = s.dstAddr := rfl
@[simp] theorem completeOk_dstCap (s : State) (len syms : Nat) : (s.completeOk len syms).dstCap = s.dstCap := rfl
@[simp] theorem completeOk_done (s : State) (len syms : Nat) : (s.completeOk len syms).done = true := rfl
@[simp] theorem completeOk_empty (s : State) (len syms : Nat) : (s.completeOk len syms).empty = decide (syms = 0) := rfl
@[simp] theorem completeOk_errCode (s : State) (len syms : Nat) : (s.completeOk len syms).errCode = .noError := rfl
@[simp] theorem completeOk_dstLen (s : State) (len syms : Nat) : (s.completeOk len syms).dstLen = BitVec.ofNat 32 len := rfl
@[simp] theorem completeOk_symCount (s : State) (len syms : Nat) : (s.completeOk len syms).symCount = BitVec.ofNat 32 syms := rfl
@[simp] theorem completeOk_running (s : State) (len syms : Nat) : (s.completeOk len syms).running = none := rfl
@[simp] theorem completeOk_work (s : State) (len syms : Nat) : (s.completeOk len syms).work = s.work := rfl
@[simp] theorem completeOk_unseen (s : State) (len syms : Nat) : (s.completeOk len syms).unseen = s.completing := rfl
@[simp] theorem completeOk_mem (s : State) (len syms : Nat) : (s.completeOk len syms).mem = s.mem := rfl
@[simp] theorem completeOk_platform (s : State) (len syms : Nat) : (s.completeOk len syms).platform = s.platform := rfl
@[simp] theorem completeOk_hostDirty (s : State) (len syms : Nat) : (s.completeOk len syms).hostDirty = s.hostDirty := rfl
@[simp] theorem completeOk_dmaDirty (s : State) (len syms : Nat) : (s.completeOk len syms).dmaDirty = s.dmaDirty := rfl
@[simp] theorem completeOk_inputs (s : State) (len syms : Nat) : (s.completeOk len syms).inputs = s.inputs := rfl
@[simp] theorem completeOk_schedule (s : State) (len syms : Nat) : (s.completeOk len syms).schedule = s.schedule := rfl
@[simp] theorem completeOk_resp (s : State) (len syms : Nat) : (s.completeOk len syms).resp = s.resp := rfl
@[simp] theorem completeOk_freeCtr (s : State) (len syms : Nat) : (s.completeOk len syms).freeCtr = s.freeCtr := rfl

/-! ## unspecifiedOutcome -/

@[simp] theorem unspecifiedOutcome_irqEn (s : State) : s.unspecifiedOutcome.irqEn = s.irqEn := rfl
@[simp] theorem unspecifiedOutcome_cmdOp (s : State) : s.unspecifiedOutcome.cmdOp = s.cmdOp := rfl
@[simp] theorem unspecifiedOutcome_srcAddr (s : State) : s.unspecifiedOutcome.srcAddr = s.srcAddr := rfl
@[simp] theorem unspecifiedOutcome_srcLen (s : State) : s.unspecifiedOutcome.srcLen = s.srcLen := rfl
@[simp] theorem unspecifiedOutcome_dstAddr (s : State) : s.unspecifiedOutcome.dstAddr = s.dstAddr := rfl
@[simp] theorem unspecifiedOutcome_dstCap (s : State) : s.unspecifiedOutcome.dstCap = s.dstCap := rfl
@[simp] theorem unspecifiedOutcome_done (s : State) : s.unspecifiedOutcome.done = s.done := rfl
@[simp] theorem unspecifiedOutcome_empty (s : State) : s.unspecifiedOutcome.empty = (decide (reportableCodes.getD ((s.free 0).toNat % 8) .noError = .noError) && decide (s.free 2 = 0#32)) := rfl
@[simp] theorem unspecifiedOutcome_errCode (s : State) : s.unspecifiedOutcome.errCode = reportableCodes.getD ((s.free 0).toNat % 8) .noError := rfl
@[simp] theorem unspecifiedOutcome_dstLen (s : State) : s.unspecifiedOutcome.dstLen = s.free 1 := rfl
@[simp] theorem unspecifiedOutcome_symCount (s : State) : s.unspecifiedOutcome.symCount = s.free 2 := rfl
@[simp] theorem unspecifiedOutcome_running (s : State) : s.unspecifiedOutcome.running = s.running := rfl
@[simp] theorem unspecifiedOutcome_work (s : State) : s.unspecifiedOutcome.work = s.work := rfl
@[simp] theorem unspecifiedOutcome_unseen (s : State) : s.unspecifiedOutcome.unseen = s.unseen := rfl
@[simp] theorem unspecifiedOutcome_mem (s : State) : s.unspecifiedOutcome.mem = s.mem := rfl
@[simp] theorem unspecifiedOutcome_platform (s : State) : s.unspecifiedOutcome.platform = s.platform := rfl
@[simp] theorem unspecifiedOutcome_hostDirty (s : State) : s.unspecifiedOutcome.hostDirty = s.hostDirty := rfl
@[simp] theorem unspecifiedOutcome_dmaDirty (s : State) : s.unspecifiedOutcome.dmaDirty = s.dmaDirty := rfl
@[simp] theorem unspecifiedOutcome_inputs (s : State) : s.unspecifiedOutcome.inputs = s.inputs := rfl
@[simp] theorem unspecifiedOutcome_schedule (s : State) : s.unspecifiedOutcome.schedule = s.schedule := rfl
@[simp] theorem unspecifiedOutcome_resp (s : State) : s.unspecifiedOutcome.resp = s.resp := rfl
@[simp] theorem unspecifiedOutcome_freeCtr (s : State) : s.unspecifiedOutcome.freeCtr = s.freeCtr + 3 := rfl

/-! ## completeUnspecified -/

@[simp] theorem completeUnspecified_irqEn (s : State) : s.completeUnspecified.irqEn = s.irqEn := rfl
@[simp] theorem completeUnspecified_cmdOp (s : State) : s.completeUnspecified.cmdOp = s.cmdOp := rfl
@[simp] theorem completeUnspecified_srcAddr (s : State) : s.completeUnspecified.srcAddr = s.srcAddr := rfl
@[simp] theorem completeUnspecified_srcLen (s : State) : s.completeUnspecified.srcLen = s.srcLen := rfl
@[simp] theorem completeUnspecified_dstAddr (s : State) : s.completeUnspecified.dstAddr = s.dstAddr := rfl
@[simp] theorem completeUnspecified_dstCap (s : State) : s.completeUnspecified.dstCap = s.dstCap := rfl
@[simp] theorem completeUnspecified_done (s : State) : s.completeUnspecified.done = true := rfl
@[simp] theorem completeUnspecified_empty (s : State) : s.completeUnspecified.empty = (decide (reportableCodes.getD ((s.free 0).toNat % 8) .noError = .noError) && decide (s.free 2 = 0#32)) := rfl
@[simp] theorem completeUnspecified_errCode (s : State) : s.completeUnspecified.errCode = reportableCodes.getD ((s.free 0).toNat % 8) .noError := rfl
@[simp] theorem completeUnspecified_dstLen (s : State) : s.completeUnspecified.dstLen = s.free 1 := rfl
@[simp] theorem completeUnspecified_symCount (s : State) : s.completeUnspecified.symCount = s.free 2 := rfl
@[simp] theorem completeUnspecified_running (s : State) : s.completeUnspecified.running = none := rfl
@[simp] theorem completeUnspecified_work (s : State) : s.completeUnspecified.work = Work.empty := rfl
@[simp] theorem completeUnspecified_unseen (s : State) : s.completeUnspecified.unseen = s.completing := rfl
@[simp] theorem completeUnspecified_mem (s : State) : s.completeUnspecified.mem = s.mem := rfl
@[simp] theorem completeUnspecified_platform (s : State) : s.completeUnspecified.platform = s.platform := rfl
@[simp] theorem completeUnspecified_hostDirty (s : State) : s.completeUnspecified.hostDirty = s.hostDirty := rfl
@[simp] theorem completeUnspecified_dmaDirty (s : State) : s.completeUnspecified.dmaDirty = s.dmaDirty := rfl
@[simp] theorem completeUnspecified_inputs (s : State) : s.completeUnspecified.inputs = s.inputs := rfl
@[simp] theorem completeUnspecified_schedule (s : State) : s.completeUnspecified.schedule = s.schedule := rfl
@[simp] theorem completeUnspecified_resp (s : State) : s.completeUnspecified.resp = s.resp := rfl
@[simp] theorem completeUnspecified_freeCtr (s : State) : s.completeUnspecified.freeCtr = s.freeCtr + 3 := rfl

/-! ## acknowledge -/

@[simp] theorem acknowledge_irqEn (s : State) : s.acknowledge.irqEn = s.irqEn := rfl
@[simp] theorem acknowledge_cmdOp (s : State) : s.acknowledge.cmdOp = s.cmdOp := rfl
@[simp] theorem acknowledge_srcAddr (s : State) : s.acknowledge.srcAddr = s.srcAddr := rfl
@[simp] theorem acknowledge_srcLen (s : State) : s.acknowledge.srcLen = s.srcLen := rfl
@[simp] theorem acknowledge_dstAddr (s : State) : s.acknowledge.dstAddr = s.dstAddr := rfl
@[simp] theorem acknowledge_dstCap (s : State) : s.acknowledge.dstCap = s.dstCap := rfl
@[simp] theorem acknowledge_done (s : State) : s.acknowledge.done = false := rfl
@[simp] theorem acknowledge_empty (s : State) : s.acknowledge.empty = s.empty := rfl
@[simp] theorem acknowledge_errCode (s : State) : s.acknowledge.errCode = s.errCode := rfl
@[simp] theorem acknowledge_dstLen (s : State) : s.acknowledge.dstLen = s.dstLen := rfl
@[simp] theorem acknowledge_symCount (s : State) : s.acknowledge.symCount = s.symCount := rfl
@[simp] theorem acknowledge_running (s : State) : s.acknowledge.running = s.running := rfl
@[simp] theorem acknowledge_work (s : State) : s.acknowledge.work = s.work := rfl
@[simp] theorem acknowledge_unseen (s : State) : s.acknowledge.unseen = s.unseen := rfl
@[simp] theorem acknowledge_mem (s : State) : s.acknowledge.mem = s.mem := rfl
@[simp] theorem acknowledge_platform (s : State) : s.acknowledge.platform = s.platform := rfl
@[simp] theorem acknowledge_hostDirty (s : State) : s.acknowledge.hostDirty = s.hostDirty := rfl
@[simp] theorem acknowledge_dmaDirty (s : State) : s.acknowledge.dmaDirty = s.dmaDirty := rfl
@[simp] theorem acknowledge_inputs (s : State) : s.acknowledge.inputs = s.inputs := rfl
@[simp] theorem acknowledge_schedule (s : State) : s.acknowledge.schedule = s.schedule := rfl
@[simp] theorem acknowledge_resp (s : State) : s.acknowledge.resp = s.resp := rfl
@[simp] theorem acknowledge_freeCtr (s : State) : s.acknowledge.freeCtr = s.freeCtr := rfl

/-! ## stall -/

@[simp] theorem stall_irqEn (s : State) (r : Running) : (s.stall r).irqEn = s.irqEn := rfl
@[simp] theorem stall_cmdOp (s : State) (r : Running) : (s.stall r).cmdOp = s.cmdOp := rfl
@[simp] theorem stall_srcAddr (s : State) (r : Running) : (s.stall r).srcAddr = s.srcAddr := rfl
@[simp] theorem stall_srcLen (s : State) (r : Running) : (s.stall r).srcLen = s.srcLen := rfl
@[simp] theorem stall_dstAddr (s : State) (r : Running) : (s.stall r).dstAddr = s.dstAddr := rfl
@[simp] theorem stall_dstCap (s : State) (r : Running) : (s.stall r).dstCap = s.dstCap := rfl
@[simp] theorem stall_done (s : State) (r : Running) : (s.stall r).done = s.done := rfl
@[simp] theorem stall_empty (s : State) (r : Running) : (s.stall r).empty = s.empty := rfl
@[simp] theorem stall_errCode (s : State) (r : Running) : (s.stall r).errCode = s.errCode := rfl
@[simp] theorem stall_dstLen (s : State) (r : Running) : (s.stall r).dstLen = s.dstLen := rfl
@[simp] theorem stall_symCount (s : State) (r : Running) : (s.stall r).symCount = s.symCount := rfl
@[simp] theorem stall_running (s : State) (r : Running) : (s.stall r).running = some { r with stalled := true } := rfl
@[simp] theorem stall_work (s : State) (r : Running) : (s.stall r).work = s.work := rfl
@[simp] theorem stall_unseen (s : State) (r : Running) : (s.stall r).unseen = s.unseen := rfl
@[simp] theorem stall_mem (s : State) (r : Running) : (s.stall r).mem = s.mem := rfl
@[simp] theorem stall_platform (s : State) (r : Running) : (s.stall r).platform = s.platform := rfl
@[simp] theorem stall_hostDirty (s : State) (r : Running) : (s.stall r).hostDirty = s.hostDirty := rfl
@[simp] theorem stall_dmaDirty (s : State) (r : Running) : (s.stall r).dmaDirty = s.dmaDirty := rfl
@[simp] theorem stall_inputs (s : State) (r : Running) : (s.stall r).inputs = s.inputs := rfl
@[simp] theorem stall_schedule (s : State) (r : Running) : (s.stall r).schedule = s.schedule := rfl
@[simp] theorem stall_resp (s : State) (r : Running) : (s.stall r).resp = s.resp := rfl
@[simp] theorem stall_freeCtr (s : State) (r : Running) : (s.stall r).freeCtr = s.freeCtr := rfl

/-! ## clearCore -/

@[simp] theorem clearCore_irqEn (s : State) : s.clearCore.irqEn = false := rfl
@[simp] theorem clearCore_cmdOp (s : State) : s.clearCore.cmdOp = 0#4 := rfl
@[simp] theorem clearCore_srcAddr (s : State) : s.clearCore.srcAddr = 0#32 := rfl
@[simp] theorem clearCore_srcLen (s : State) : s.clearCore.srcLen = 0#32 := rfl
@[simp] theorem clearCore_dstAddr (s : State) : s.clearCore.dstAddr = 0#32 := rfl
@[simp] theorem clearCore_dstCap (s : State) : s.clearCore.dstCap = 0#32 := rfl
@[simp] theorem clearCore_done (s : State) : s.clearCore.done = false := rfl
@[simp] theorem clearCore_empty (s : State) : s.clearCore.empty = false := rfl
@[simp] theorem clearCore_errCode (s : State) : s.clearCore.errCode = .noError := rfl
@[simp] theorem clearCore_dstLen (s : State) : s.clearCore.dstLen = 0#32 := rfl
@[simp] theorem clearCore_symCount (s : State) : s.clearCore.symCount = 0#32 := rfl
@[simp] theorem clearCore_running (s : State) : s.clearCore.running = none := rfl
@[simp] theorem clearCore_work (s : State) : s.clearCore.work = Work.empty := rfl
@[simp] theorem clearCore_unseen (s : State) : s.clearCore.unseen = none := rfl
@[simp] theorem clearCore_mem (s : State) : s.clearCore.mem = s.mem := rfl
@[simp] theorem clearCore_platform (s : State) : s.clearCore.platform = s.platform := rfl
@[simp] theorem clearCore_hostDirty (s : State) : s.clearCore.hostDirty = s.hostDirty := rfl
@[simp] theorem clearCore_dmaDirty (s : State) : s.clearCore.dmaDirty = s.dmaDirty := rfl
@[simp] theorem clearCore_inputs (s : State) : s.clearCore.inputs = s.inputs := rfl
@[simp] theorem clearCore_schedule (s : State) : s.clearCore.schedule = s.schedule := rfl
@[simp] theorem clearCore_resp (s : State) : s.clearCore.resp = s.resp := rfl
@[simp] theorem clearCore_freeCtr (s : State) : s.clearCore.freeCtr = s.freeCtr := rfl

/-! ## readCsr -/

@[simp] theorem readCsr_irqEn (s : State) (c : Csr) : (s.readCsr c).irqEn = s.irqEn := rfl
@[simp] theorem readCsr_cmdOp (s : State) (c : Csr) : (s.readCsr c).cmdOp = s.cmdOp := rfl
@[simp] theorem readCsr_srcAddr (s : State) (c : Csr) : (s.readCsr c).srcAddr = s.srcAddr := rfl
@[simp] theorem readCsr_srcLen (s : State) (c : Csr) : (s.readCsr c).srcLen = s.srcLen := rfl
@[simp] theorem readCsr_dstAddr (s : State) (c : Csr) : (s.readCsr c).dstAddr = s.dstAddr := rfl
@[simp] theorem readCsr_dstCap (s : State) (c : Csr) : (s.readCsr c).dstCap = s.dstCap := rfl
@[simp] theorem readCsr_done (s : State) (c : Csr) : (s.readCsr c).done = s.done := rfl
@[simp] theorem readCsr_empty (s : State) (c : Csr) : (s.readCsr c).empty = s.empty := rfl
@[simp] theorem readCsr_errCode (s : State) (c : Csr) : (s.readCsr c).errCode = s.errCode := rfl
@[simp] theorem readCsr_dstLen (s : State) (c : Csr) : (s.readCsr c).dstLen = s.dstLen := rfl
@[simp] theorem readCsr_symCount (s : State) (c : Csr) : (s.readCsr c).symCount = s.symCount := rfl
@[simp] theorem readCsr_running (s : State) (c : Csr) : (s.readCsr c).running = s.running := rfl
@[simp] theorem readCsr_work (s : State) (c : Csr) : (s.readCsr c).work = s.work := rfl
@[simp] theorem readCsr_unseen (s : State) (c : Csr) : (s.readCsr c).unseen = (if c = .status ∧ s.done = true then none else s.unseen) := rfl
@[simp] theorem readCsr_mem (s : State) (c : Csr) : (s.readCsr c).mem = s.mem := rfl
@[simp] theorem readCsr_platform (s : State) (c : Csr) : (s.readCsr c).platform = s.platform := rfl
@[simp] theorem readCsr_hostDirty (s : State) (c : Csr) : (s.readCsr c).hostDirty = s.hostDirty := rfl
@[simp] theorem readCsr_dmaDirty (s : State) (c : Csr) : (s.readCsr c).dmaDirty = s.dmaDirty := rfl
@[simp] theorem readCsr_inputs (s : State) (c : Csr) : (s.readCsr c).inputs = s.inputs := rfl
@[simp] theorem readCsr_schedule (s : State) (c : Csr) : (s.readCsr c).schedule = s.schedule := rfl
@[simp] theorem readCsr_resp (s : State) (c : Csr) : (s.readCsr c).resp = some (.data (s.csrValue c)) := rfl
@[simp] theorem readCsr_freeCtr (s : State) (c : Csr) : (s.readCsr c).freeCtr = s.freeCtr + 1 := rfl

/-! ## refuseAccess -/

@[simp] theorem refuseAccess_irqEn (s : State) : s.refuseAccess.irqEn = s.irqEn := rfl
@[simp] theorem refuseAccess_cmdOp (s : State) : s.refuseAccess.cmdOp = s.cmdOp := rfl
@[simp] theorem refuseAccess_srcAddr (s : State) : s.refuseAccess.srcAddr = s.srcAddr := rfl
@[simp] theorem refuseAccess_srcLen (s : State) : s.refuseAccess.srcLen = s.srcLen := rfl
@[simp] theorem refuseAccess_dstAddr (s : State) : s.refuseAccess.dstAddr = s.dstAddr := rfl
@[simp] theorem refuseAccess_dstCap (s : State) : s.refuseAccess.dstCap = s.dstCap := rfl
@[simp] theorem refuseAccess_done (s : State) : s.refuseAccess.done = s.done := rfl
@[simp] theorem refuseAccess_empty (s : State) : s.refuseAccess.empty = s.empty := rfl
@[simp] theorem refuseAccess_errCode (s : State) : s.refuseAccess.errCode = s.errCode := rfl
@[simp] theorem refuseAccess_dstLen (s : State) : s.refuseAccess.dstLen = s.dstLen := rfl
@[simp] theorem refuseAccess_symCount (s : State) : s.refuseAccess.symCount = s.symCount := rfl
@[simp] theorem refuseAccess_running (s : State) : s.refuseAccess.running = s.running := rfl
@[simp] theorem refuseAccess_work (s : State) : s.refuseAccess.work = s.work := rfl
@[simp] theorem refuseAccess_unseen (s : State) : s.refuseAccess.unseen = s.unseen := rfl
@[simp] theorem refuseAccess_mem (s : State) : s.refuseAccess.mem = s.mem := rfl
@[simp] theorem refuseAccess_platform (s : State) : s.refuseAccess.platform = s.platform := rfl
@[simp] theorem refuseAccess_hostDirty (s : State) : s.refuseAccess.hostDirty = s.hostDirty := rfl
@[simp] theorem refuseAccess_dmaDirty (s : State) : s.refuseAccess.dmaDirty = s.dmaDirty := rfl
@[simp] theorem refuseAccess_inputs (s : State) : s.refuseAccess.inputs = s.inputs := rfl
@[simp] theorem refuseAccess_schedule (s : State) : s.refuseAccess.schedule = s.schedule := rfl
@[simp] theorem refuseAccess_resp (s : State) : s.refuseAccess.resp = some .busError := rfl
@[simp] theorem refuseAccess_freeCtr (s : State) : s.refuseAccess.freeCtr = s.freeCtr := rfl

/-! ## putByte -/

@[simp] theorem putByte_irqEn (s : State) (a : Nat) (b : Byte) : (s.putByte a b).irqEn = s.irqEn := rfl
@[simp] theorem putByte_cmdOp (s : State) (a : Nat) (b : Byte) : (s.putByte a b).cmdOp = s.cmdOp := rfl
@[simp] theorem putByte_srcAddr (s : State) (a : Nat) (b : Byte) : (s.putByte a b).srcAddr = s.srcAddr := rfl
@[simp] theorem putByte_srcLen (s : State) (a : Nat) (b : Byte) : (s.putByte a b).srcLen = s.srcLen := rfl
@[simp] theorem putByte_dstAddr (s : State) (a : Nat) (b : Byte) : (s.putByte a b).dstAddr = s.dstAddr := rfl
@[simp] theorem putByte_dstCap (s : State) (a : Nat) (b : Byte) : (s.putByte a b).dstCap = s.dstCap := rfl
@[simp] theorem putByte_done (s : State) (a : Nat) (b : Byte) : (s.putByte a b).done = s.done := rfl
@[simp] theorem putByte_empty (s : State) (a : Nat) (b : Byte) : (s.putByte a b).empty = s.empty := rfl
@[simp] theorem putByte_errCode (s : State) (a : Nat) (b : Byte) : (s.putByte a b).errCode = s.errCode := rfl
@[simp] theorem putByte_dstLen (s : State) (a : Nat) (b : Byte) : (s.putByte a b).dstLen = s.dstLen := rfl
@[simp] theorem putByte_symCount (s : State) (a : Nat) (b : Byte) : (s.putByte a b).symCount = s.symCount := rfl
@[simp] theorem putByte_running (s : State) (a : Nat) (b : Byte) : (s.putByte a b).running = s.running := rfl
@[simp] theorem putByte_work (s : State) (a : Nat) (b : Byte) : (s.putByte a b).work = s.work := rfl
@[simp] theorem putByte_unseen (s : State) (a : Nat) (b : Byte) : (s.putByte a b).unseen = s.unseen := rfl
@[simp] theorem putByte_mem (s : State) (a : Nat) (b : Byte) : (s.putByte a b).mem = s.mem.write a b := rfl
@[simp] theorem putByte_platform (s : State) (a : Nat) (b : Byte) : (s.putByte a b).platform = s.platform := rfl
@[simp] theorem putByte_hostDirty (s : State) (a : Nat) (b : Byte) : (s.putByte a b).hostDirty = s.addDirty s.hostDirty ⟨a, 1⟩ := rfl
@[simp] theorem putByte_dmaDirty (s : State) (a : Nat) (b : Byte) : (s.putByte a b).dmaDirty = s.dmaDirty := rfl
@[simp] theorem putByte_inputs (s : State) (a : Nat) (b : Byte) : (s.putByte a b).inputs = s.inputs := rfl
@[simp] theorem putByte_schedule (s : State) (a : Nat) (b : Byte) : (s.putByte a b).schedule = s.schedule := rfl
@[simp] theorem putByte_resp (s : State) (a : Nat) (b : Byte) : (s.putByte a b).resp = s.resp := rfl
@[simp] theorem putByte_freeCtr (s : State) (a : Nat) (b : Byte) : (s.putByte a b).freeCtr = s.freeCtr := rfl

/-! ## hostLoad -/

@[simp] theorem hostLoad_irqEn (s : State) (a : Nat) : (s.hostLoad a).irqEn = s.irqEn := rfl
@[simp] theorem hostLoad_cmdOp (s : State) (a : Nat) : (s.hostLoad a).cmdOp = s.cmdOp := rfl
@[simp] theorem hostLoad_srcAddr (s : State) (a : Nat) : (s.hostLoad a).srcAddr = s.srcAddr := rfl
@[simp] theorem hostLoad_srcLen (s : State) (a : Nat) : (s.hostLoad a).srcLen = s.srcLen := rfl
@[simp] theorem hostLoad_dstAddr (s : State) (a : Nat) : (s.hostLoad a).dstAddr = s.dstAddr := rfl
@[simp] theorem hostLoad_dstCap (s : State) (a : Nat) : (s.hostLoad a).dstCap = s.dstCap := rfl
@[simp] theorem hostLoad_done (s : State) (a : Nat) : (s.hostLoad a).done = s.done := rfl
@[simp] theorem hostLoad_empty (s : State) (a : Nat) : (s.hostLoad a).empty = s.empty := rfl
@[simp] theorem hostLoad_errCode (s : State) (a : Nat) : (s.hostLoad a).errCode = s.errCode := rfl
@[simp] theorem hostLoad_dstLen (s : State) (a : Nat) : (s.hostLoad a).dstLen = s.dstLen := rfl
@[simp] theorem hostLoad_symCount (s : State) (a : Nat) : (s.hostLoad a).symCount = s.symCount := rfl
@[simp] theorem hostLoad_running (s : State) (a : Nat) : (s.hostLoad a).running = s.running := rfl
@[simp] theorem hostLoad_work (s : State) (a : Nat) : (s.hostLoad a).work = s.work := rfl
@[simp] theorem hostLoad_unseen (s : State) (a : Nat) : (s.hostLoad a).unseen = s.unseen := rfl
@[simp] theorem hostLoad_mem (s : State) (a : Nat) : (s.hostLoad a).mem = s.mem := rfl
@[simp] theorem hostLoad_platform (s : State) (a : Nat) : (s.hostLoad a).platform = s.platform := rfl
@[simp] theorem hostLoad_hostDirty (s : State) (a : Nat) : (s.hostLoad a).hostDirty = s.hostDirty := rfl
@[simp] theorem hostLoad_dmaDirty (s : State) (a : Nat) : (s.hostLoad a).dmaDirty = s.dmaDirty := rfl
@[simp] theorem hostLoad_inputs (s : State) (a : Nat) : (s.hostLoad a).inputs = s.inputs := rfl
@[simp] theorem hostLoad_schedule (s : State) (a : Nat) : (s.hostLoad a).schedule = s.schedule := rfl
@[simp] theorem hostLoad_resp (s : State) (a : Nat) : (s.hostLoad a).resp = some (.byte (s.hostByte a)) := rfl
@[simp] theorem hostLoad_freeCtr (s : State) (a : Nat) : (s.hostLoad a).freeCtr = s.freeCtr + 1 := rfl

/-! ## takeIrq -/

@[simp] theorem takeIrq_irqEn (s : State) : s.takeIrq.irqEn = s.irqEn := rfl
@[simp] theorem takeIrq_cmdOp (s : State) : s.takeIrq.cmdOp = s.cmdOp := rfl
@[simp] theorem takeIrq_srcAddr (s : State) : s.takeIrq.srcAddr = s.srcAddr := rfl
@[simp] theorem takeIrq_srcLen (s : State) : s.takeIrq.srcLen = s.srcLen := rfl
@[simp] theorem takeIrq_dstAddr (s : State) : s.takeIrq.dstAddr = s.dstAddr := rfl
@[simp] theorem takeIrq_dstCap (s : State) : s.takeIrq.dstCap = s.dstCap := rfl
@[simp] theorem takeIrq_done (s : State) : s.takeIrq.done = s.done := rfl
@[simp] theorem takeIrq_empty (s : State) : s.takeIrq.empty = s.empty := rfl
@[simp] theorem takeIrq_errCode (s : State) : s.takeIrq.errCode = s.errCode := rfl
@[simp] theorem takeIrq_dstLen (s : State) : s.takeIrq.dstLen = s.dstLen := rfl
@[simp] theorem takeIrq_symCount (s : State) : s.takeIrq.symCount = s.symCount := rfl
@[simp] theorem takeIrq_running (s : State) : s.takeIrq.running = s.running := rfl
@[simp] theorem takeIrq_work (s : State) : s.takeIrq.work = s.work := rfl
@[simp] theorem takeIrq_unseen (s : State) : s.takeIrq.unseen = none := rfl
@[simp] theorem takeIrq_mem (s : State) : s.takeIrq.mem = s.mem := rfl
@[simp] theorem takeIrq_platform (s : State) : s.takeIrq.platform = s.platform := rfl
@[simp] theorem takeIrq_hostDirty (s : State) : s.takeIrq.hostDirty = s.hostDirty := rfl
@[simp] theorem takeIrq_dmaDirty (s : State) : s.takeIrq.dmaDirty = s.dmaDirty := rfl
@[simp] theorem takeIrq_inputs (s : State) : s.takeIrq.inputs = s.inputs := rfl
@[simp] theorem takeIrq_schedule (s : State) : s.takeIrq.schedule = s.schedule := rfl
@[simp] theorem takeIrq_resp (s : State) : s.takeIrq.resp = s.resp := rfl
@[simp] theorem takeIrq_freeCtr (s : State) : s.takeIrq.freeCtr = s.freeCtr := rfl

/-! ## maintain -/

@[simp] theorem maintain_irqEn (s : State) : s.maintain.irqEn = s.irqEn := rfl
@[simp] theorem maintain_cmdOp (s : State) : s.maintain.cmdOp = s.cmdOp := rfl
@[simp] theorem maintain_srcAddr (s : State) : s.maintain.srcAddr = s.srcAddr := rfl
@[simp] theorem maintain_srcLen (s : State) : s.maintain.srcLen = s.srcLen := rfl
@[simp] theorem maintain_dstAddr (s : State) : s.maintain.dstAddr = s.dstAddr := rfl
@[simp] theorem maintain_dstCap (s : State) : s.maintain.dstCap = s.dstCap := rfl
@[simp] theorem maintain_done (s : State) : s.maintain.done = s.done := rfl
@[simp] theorem maintain_empty (s : State) : s.maintain.empty = s.empty := rfl
@[simp] theorem maintain_errCode (s : State) : s.maintain.errCode = s.errCode := rfl
@[simp] theorem maintain_dstLen (s : State) : s.maintain.dstLen = s.dstLen := rfl
@[simp] theorem maintain_symCount (s : State) : s.maintain.symCount = s.symCount := rfl
@[simp] theorem maintain_running (s : State) : s.maintain.running = s.running := rfl
@[simp] theorem maintain_work (s : State) : s.maintain.work = s.work := rfl
@[simp] theorem maintain_unseen (s : State) : s.maintain.unseen = s.unseen := rfl
@[simp] theorem maintain_mem (s : State) : s.maintain.mem = s.mem := rfl
@[simp] theorem maintain_platform (s : State) : s.maintain.platform = s.platform := rfl
@[simp] theorem maintain_hostDirty (s : State) : s.maintain.hostDirty = [] := rfl
@[simp] theorem maintain_dmaDirty (s : State) : s.maintain.dmaDirty = [] := rfl
@[simp] theorem maintain_inputs (s : State) : s.maintain.inputs = s.inputs := rfl
@[simp] theorem maintain_schedule (s : State) : s.maintain.schedule = s.schedule := rfl
@[simp] theorem maintain_resp (s : State) : s.maintain.resp = s.resp := rfl
@[simp] theorem maintain_freeCtr (s : State) : s.maintain.freeCtr = s.freeCtr := rfl

end Sys2Proof.Machine
end

