-- ==== Sys2Proof/Laws/Frame.lean ====
section
/-! SUPPORT. Laws.Frame: everything a command can do, said once (spec/40_frequency_model.md R100). -/

namespace Sys2Proof.Machine

/-- Without an accepted START there is no command to run. -/
theorem exec_idle {s : State} (i : Instr) (h : s.running = none) : exec i s = .fault .noCommand := by
  cases i <;> simp [exec, execFreq, execHenc, execHdec, execHcodes, execAenc, execAdec, runCommand, h]

/-- Every command is the frame around its body. -/
theorem exec_running {s : State} {r : Running} (i : Instr) (h : s.running = some r) :
    exec i s = .next (s.frame i r (bodyOf i)) := by
  cases i <;> simp [exec, execFreq, execHenc, execHdec, execHcodes, execAenc, execAdec, runCommand, h, bodyOf]

/-- A next state of a command is the frame's. -/
theorem exec_next {s s' : State} {i : Instr} (h : exec i s = .next s') :
    ∃ r, s.running = some r ∧ s' = s.frame i r (bodyOf i) := by
  cases hr : s.running with
  | none => rw [exec_idle i hr] at h; cases h
  | some r => rw [exec_running i hr] at h; exact ⟨r, rfl, by injection h with h; exact h.symm⟩

/-- How a command with an unspecified outcome ends. -/
theorem endUnspecified_cases (s : State) (r : Running) :
    s.endUnspecified r = (s.scrubWindow r.latch).completeUnspecified ∨
    (s.platform.answers .write r.latch.dst .never = true ∧ s.endUnspecified r = s.stall r) := by
  unfold State.endUnspecified
  split
  · exact .inr ⟨by simp_all, rfl⟩
  · exact .inl rfl

/-- How the end of the frame goes. -/
theorem deliver_cases (s : State) (r : Running) (b : BodyOut) :
    (s.Takes r b.out.length ∧ s.deliver r b = s.success r b.out b.syms b.work) ∨
    (r.latch.dc.toNat < b.out.length ∧ s.deliver r b = s.endWithError r .outputOverflow) ∨
    (b.out.length ≤ r.latch.dc.toNat ∧ s.dma .write ⟨r.latch.da.toNat, b.out.length⟩ = .error ∧
      s.deliver r b = s.endWithError r .busError) ∨
    (b.out.length ≤ r.latch.dc.toNat ∧ s.dma .write ⟨r.latch.da.toNat, b.out.length⟩ = .stall ∧
      s.deliver r b = s.stall r) := by
  unfold State.deliver
  split
  · exact .inr (.inl ⟨‹_›, rfl⟩)
  · have hle : b.out.length ≤ r.latch.dc.toNat := by omega
    cases hd : s.dma .write ⟨r.latch.da.toNat, b.out.length⟩ with
    | ok => exact .inl ⟨⟨hle, hd⟩, rfl⟩
    | error => exact .inr (.inr (.inl ⟨hle, rfl, rfl⟩))
    | stall => exact .inr (.inr (.inr ⟨hle, rfl, rfl⟩))

/-- How a body's end goes, whatever the body is: a success, an error, or a wait for a DMA answer. -/
theorem finish_cases (s : State) (r : Running) (res : BodyResult) :
    (∃ b, res = .ok b ∧ s.Takes r b.out.length ∧ s.finish r res = s.success r b.out b.syms b.work) ∨
    (∃ code, (res = .error code ∨ code = .outputOverflow ∨ code = .busError) ∧
      s.finish r res = s.endWithError r code) ∨
    ((∃ b, res = .ok b ∧ s.dma .write ⟨r.latch.da.toNat, b.out.length⟩ = .stall ∧ b.out.length ≤ r.latch.dc.toNat) ∧
      s.finish r res = s.stall r) := by
  cases res with
  | error code => exact .inr (.inl ⟨code, .inl rfl, rfl⟩)
  | ok b =>
    rcases deliver_cases s r b with ⟨h, e⟩ | ⟨_, e⟩ | ⟨_, _, e⟩ | ⟨h, hd, e⟩
    · exact .inl ⟨b, rfl, h, e⟩
    · exact .inr (.inl ⟨_, .inr (.inl rfl), e⟩)
    · exact .inr (.inl ⟨_, .inr (.inr rfl), e⟩)
    · exact .inr (.inr ⟨⟨b, rfl, hd, h⟩, e⟩)

/-- What an undefined result can be: one of the errors of the body, or bytes with the symbol count of R33. -/
theorem freeResult_cases (s : State) (i : Instr) (r : Running) :
    (∃ code ∈ bodyErrors i, s.freeResult i r = .error code) ∨
    s.freeResult i r =
      .ok ⟨(s.bump 2).freeBytes (s.freeLength i), symsOf i r.latch (s.freeLength i), Work.empty⟩ := by
  unfold State.freeResult
  split
  · exact .inl ⟨_, List.mem_of_getElem? ‹_›, rfl⟩
  · exact .inr rfl

/-- Everything the frame can do, with the conditions under which it does so. -/
theorem frame_cases (s : State) (i : Instr) (r : Running) (body : List Byte → Nat → BodyResult) :
    (∃ code, preCheck i r.latch = some code ∧ s.frame i r body = s.endBeforeDma r code) ∨
    (preCheck i r.latch = none ∧ s.dma .read r.latch.src = .stall ∧ s.frame i r body = s.stall r) ∨
    (preCheck i r.latch = none ∧ s.dma .read r.latch.src ≠ .stall ∧ r.hazard = true ∧
      s.frame i r body = s.endUnspecified r) ∨
    (preCheck i r.latch = none ∧ s.dma .read r.latch.src = .error ∧ r.hazard = false ∧
      s.frame i r body = s.endWithError r .busError) ∨
    (preCheck i r.latch = none ∧ s.dma .read r.latch.src = .ok ∧ r.hazard = false ∧ s.unsteady r = true ∧
      s.frame i r body = (s.bump (2 + s.freeLength i)).finish r (s.freeResult i r)) ∨
    (preCheck i r.latch = none ∧ s.dma .read r.latch.src = .ok ∧ s.unstable r = false ∧
      s.frame i r body = s.finish r (body (s.source r.latch) r.latch.dc.toNat)) := by
  unfold State.frame
  cases hp : preCheck i r.latch with
  | some code => exact .inl ⟨code, rfl, rfl⟩
  | none =>
    refine .inr ?_
    unfold State.runBody
    cases hd : s.dma .read r.latch.src with
    | stall => exact .inl ⟨rfl, rfl, rfl⟩
    | error =>
      cases hh : r.hazard with
      | true => exact .inr (.inl ⟨rfl, by simp, rfl, rfl⟩)
      | false => exact .inr (.inr (.inl ⟨rfl, rfl, rfl, rfl⟩))
    | ok =>
      cases hh : r.hazard with
      | true => exact .inr (.inl ⟨rfl, by simp, rfl, rfl⟩)
      | false =>
        cases hu : s.unsteady r with
        | true => exact .inr (.inr (.inr (.inl ⟨rfl, rfl, rfl, rfl, rfl⟩)))
        | false => exact .inr (.inr (.inr (.inr ⟨rfl, rfl, by simp [State.unstable, hh, hu], rfl⟩)))

/-- An admitted command is the end of its body. -/
theorem exec_admits {s : State} {r : Running} {i : Instr} (ha : s.Admits i r) :
    exec i s = .next (s.finish r (bodyOf i (s.source r.latch) r.latch.dc.toNat)) := by
  obtain ⟨⟨hr, hu, hd⟩, hp⟩ := ha
  rw [exec_running i hr]
  simp only [State.unstable, Bool.or_eq_false_iff] at hu
  simp [State.frame, State.runBody, hp, hd, hu.1, hu.2]

/-- An admitted command whose body fails ends with the body's error. -/
theorem exec_bodyError {s : State} {r : Running} {i : Instr} {code : ErrCode} (ha : s.Admits i r)
    (hb : bodyOf i (s.source r.latch) r.latch.dc.toNat = .error code) :
    exec i s = .next (s.endWithError r code) := by
  rw [exec_admits ha, hb]; rfl

/-- An admitted command whose body returns goes on to deliver its result. -/
theorem exec_bodyOk {s : State} {r : Running} {i : Instr} {b : BodyOut} (ha : s.Admits i r)
    (hb : bodyOf i (s.source r.latch) r.latch.dc.toNat = .ok b) :
    exec i s = .next (s.deliver r b) := by
  rw [exec_admits ha, hb]; rfl

/-- A result that fits and is written without a bus error is a success. -/
theorem deliver_takes {s : State} {r : Running} {b : BodyOut} (ht : s.Takes r b.out.length) :
    s.deliver r b = s.success r b.out b.syms b.work := by
  simp [State.deliver, ht.2, Nat.not_lt.mpr ht.1, State.success]

/-- What a command that ends with an error reports (R212). -/
theorem endWithError_failedWith (s : State) (r : Running) (code : ErrCode) :
    (s.endWithError r code).FailedWith code := ⟨rfl, rfl, rfl, rfl, rfl, rfl⟩

/-! ## The checks before DMA -/

/-- What the checks before DMA answer. -/
theorem preCheck_cases (i : Instr) (l : Latch) :
    preCheck i l = none ∨ preCheck i l = some .badConfig ∨ preCheck i l = some .length := by
  unfold preCheck
  split
  · simp
  · split
    · simp
    · split <;> simp

/-- A command past the checks has both regions inside the address space. -/
theorem preCheck_fits {i : Instr} {l : Latch} (h : preCheck i l = none) : l.src.fits = true ∧ l.dst.fits = true := by
  unfold preCheck at h
  split at h
  · cases h
  · simp_all

/-! ## The bodies' errors (spec/60_exceptions.md R202, R203, R205) -/

/-- A header is refused with MODEL_PARSE only. -/
theorem parseRecords_error {k : Nat} {prev : Option Byte} {bs : List Byte} {e : ErrCode}
    (h : parseRecords k prev bs = .error e) : e = .modelParse := by
  fun_induction parseRecords k prev bs <;> simp_all

/-- A header is refused with MODEL_PARSE only (R202). -/
theorem parseHeader_error {src : List Byte} {ari : Bool} {e : ErrCode} (h : parseHeader src ari = .error e) :
    e = .modelParse := by
  unfold parseHeader at h
  simp only at h
  repeat' split at h
  all_goals first
    | (injection h with h; exact h.symm)
    | (cases h; exact parseRecords_error ‹_›)
    | cases h

/-- A bit past the end is TRUNCATED (R182). -/
theorem read_error {r : BitReader} {e : ErrCode} (h : r.read = .error e) : e = .truncated := by
  unfold BitReader.read at h
  split at h
  · cases h
  · injection h with h; exact h.symm

/-- A bit past the zero bits is TRUNCATED (R159). -/
theorem bitIn_error {r : BitReader} {e : ErrCode} (h : r.bitIn = .error e) : e = .truncated := by
  unfold BitReader.bitIn at h
  split at h
  · cases h
  · split at h
    · cases h
    · injection h with h; exact h.symm

end Sys2Proof.Machine
end

