-- ==== Sys2Proof/Laws/Codec.lean ====
section
/-! SUPPORT. Laws.Codec: the small lemmas of the block formats, the bit stream and the bodies (spec/00_scope.md R11, R12;
spec/43_bitstream.md; spec/60_exceptions.md R202, R203). -/

namespace Sys2Proof.Machine

/-! ## Big-endian fields -/

@[simp] theorem length_bytesBE (v n : Nat) : (bytesBE v n).length = n := by
  induction n with
  | zero => rfl
  | succ n ih => simp [bytesBE, ih]

theorem natBE_foldl (acc : Nat) (bs : List Byte) :
    bs.foldl (fun a b => a * 256 + b.toNat) acc = acc * 256 ^ bs.length + natBE bs := by
  induction bs generalizing acc with
  | nil => simp [natBE]
  | cons b bs ih =>
    rw [natBE, List.foldl_cons, List.foldl_cons, ih, ih, List.length_cons, Nat.pow_succ]
    ring

@[simp] theorem natBE_nil : natBE [] = 0 := rfl

theorem natBE_cons (b : Byte) (bs : List Byte) : natBE (b :: bs) = b.toNat * 256 ^ bs.length + natBE bs := by
  rw [natBE, List.foldl_cons, natBE_foldl, Nat.zero_mul, Nat.zero_add]

theorem natBE_lt (bs : List Byte) : natBE bs < 256 ^ bs.length := by
  induction bs with
  | nil => simp
  | cons b bs ih =>
    have hb : b.toNat < 256 := b.isLt
    rw [natBE_cons, List.length_cons, Nat.pow_succ]
    nlinarith [Nat.mul_le_mul_right (256 ^ bs.length) (Nat.le_of_lt_succ hb)]

/-- The field of a number is read back modulo the field's range. -/
theorem natBE_bytesBE_mod (v n : Nat) : natBE (bytesBE v n) = v % 256 ^ n := by
  induction n with
  | zero => simp [bytesBE, Nat.mod_one]
  | succ n ih =>
    have hm : v % (256 ^ n * 256) = v % 256 ^ n + 256 ^ n * (v / 256 ^ n % 256) := Nat.mod_mul
    rw [bytesBE, natBE_cons, ih, length_bytesBE, BitVec.toNat_ofNat, Nat.pow_succ 256 n, hm]
    ring

/-- A number that fits its field is read back (R11). -/
theorem natBE_bytesBE {v n : Nat} (h : v < 256 ^ n) : natBE (bytesBE v n) = v := by
  rw [natBE_bytesBE_mod, Nat.mod_eq_of_lt h]

@[simp] theorem length_serializeRecord (p : Byte × Nat) : (serializeRecord p).length = 5 := by simp [serializeRecord]

/-- The header's length is 2 + 5·n (spec/40_frequency_model.md R105). -/
theorem length_serializeModel (m : FreqModel) : (serializeModel m).length = 2 + 5 * m.length := by
  simp [serializeModel, List.length_flatMap]
  omega

/-! ## Bits (R180 to R182) -/

theorem natOfBits_foldl (acc : Nat) (bs : Bits) :
    bs.foldl (fun a b => a * 2 + b.toNat) acc = acc * 2 ^ bs.length + natOfBits bs := by
  induction bs generalizing acc with
  | nil => simp [natOfBits]
  | cons b bs ih =>
    rw [natOfBits, List.foldl_cons, List.foldl_cons, ih, ih, List.length_cons, Nat.pow_succ]
    ring

theorem natOfBits_cons (b : Bool) (bs : Bits) : natOfBits (b :: bs) = b.toNat * 2 ^ bs.length + natOfBits bs := by
  rw [natOfBits, List.foldl_cons, natOfBits_foldl, Nat.zero_mul, Nat.zero_add]

theorem natOfBits_lt (bs : Bits) : natOfBits bs < 2 ^ bs.length := by
  induction bs with
  | nil => simp [natOfBits]
  | cons b bs ih =>
    rw [natOfBits_cons, List.length_cons, Nat.pow_succ]
    cases b <;> simp <;> omega

/-- Bit j from the left of a bit string's number. -/
theorem testBit_natOfBits (bs : Bits) (j : Nat) (h : j < bs.length) :
    (natOfBits bs).testBit (bs.length - 1 - j) = bs[j] := by
  induction bs generalizing j with
  | nil => simp at h
  | cons b bs ih =>
    rw [natOfBits_cons, Nat.mul_comm]
    cases j with
    | zero =>
      simp only [List.length_cons, Nat.add_sub_cancel, Nat.sub_zero, List.getElem_cons_zero]
      rw [Nat.testBit_two_pow_mul_add _ (natOfBits_lt bs)]
      simp
      cases b <;> rfl
    | succ j =>
      have hj : j < bs.length := by simpa using h
      have := ih j hj
      rw [Nat.testBit_two_pow_mul_add _ (natOfBits_lt bs)]
      simp only [List.length_cons, List.getElem_cons_succ]
      rw [if_pos (by omega), show bs.length + 1 - 1 - (j + 1) = bs.length - 1 - j by omega, this]

/-- Bit 7 − j of output byte i is the bit appended at stream index 8·i + j (R180), or 0 if there is none (R181). -/
theorem getLsbD_packedByte (bits : Bits) (i j : Nat) (h : j < 8) :
    (packedByte bits i).getLsbD (7 - j) = bits.getD (8 * i + j) false := by
  have hb := testBit_natOfBits ((List.range 8).map (fun j => bits.getD (8 * i + j) false)) j (by simpa using h)
  simp only [List.length_map, List.length_range, List.getElem_map, List.getElem_range] at hb
  rw [packedByte, BitVec.getLsbD_ofNat, show 7 - j = 8 - 1 - j by omega, hb]
  simp [show 8 - 1 - j < 8 by omega]

@[simp] theorem length_packBits (bits : Bits) : (packBits bits).length = (bits.length + 7) / 8 := by simp [packBits]

/-- The reader finds each bit where the writer put it (R184). -/
theorem streamBit_packBits (bits : Bits) (k : Nat) (h : k < bits.length) : streamBit (packBits bits) k = bits[k] := by
  have hi : k / 8 < (packBits bits).length := by simp; omega
  rw [streamBit, List.getD_eq_getElem _ _ hi]
  simp only [packBits, List.getElem_map, List.getElem_range]
  rw [getLsbD_packedByte _ _ _ (by omega), show 8 * (k / 8) + k % 8 = k by omega, List.getD_eq_getElem _ _ h]

@[simp] theorem appendAll_bits (w : BitWriter) (bs : Bits) : (w.appendAll bs).bits = w.bits ++ bs := by
  induction bs generalizing w with
  | nil => simp [BitWriter.appendAll]
  | cons b bs ih =>
    have := ih (w.append b)
    simp only [BitWriter.appendAll, List.foldl_cons, BitWriter.append] at this ⊢
    simp [this]

theorem huffmanWriter_foldl (codes : CodeTable) (src : List Byte) (w : BitWriter) :
    (src.foldl (fun w s => w.appendAll (codeOf codes s)) w).bits = w.bits ++ src.flatMap (codeOf codes) := by
  induction src generalizing w with
  | nil => simp
  | cons s src ih => simp [ih]

/-- HENC's payload bits are the codewords of the input symbols, one after another (spec/41_huffman.md R130). -/
theorem huffmanWriter_bits (codes : CodeTable) (src : List Byte) :
    (huffmanWriter codes src).bits = src.flatMap (codeOf codes) := by
  simp [huffmanWriter, huffmanWriter_foldl, BitWriter.empty]

/-! ## The codeword assigner (spec/41_huffman.md R126) -/

/-- The leaves below a node with their paths from the root, `p` being the path to the node, without a stack. -/
def pathsFrom : HuffTree → Bits → CodeTable
  | .leaf s _ _, p => [(s, p)]
  | .node _ _ l r, p => pathsFrom l (p ++ [false]) ++ pathsFrom r (p ++ [true])

/-- A loop that has ended stays as it is. -/
theorem run_emptyStack (n : Nat) (c : CodeTable) : Assigner.run n ⟨[], c⟩ = ⟨[], c⟩ := by
  induction n with
  | zero => rfl
  | succ n ih => exact ih

/-- As many passes as a subtree has nodes take it off the stack and assign its leaves their paths, left to right. -/
theorem run_subtree (t : HuffTree) (n : Nat) (p : Bits) (st : List (HuffTree × Bits)) (c : CodeTable) :
    Assigner.run (t.store.length + n) ⟨(t, p) :: st, c⟩ = Assigner.run n ⟨st, c ++ pathsFrom t p⟩ := by
  induction t generalizing n p st c with
  | leaf s f i =>
    rw [show (HuffTree.leaf s f i).store.length + n = n + 1 by simp [HuffTree.store]; omega]
    rfl
  | node f i l r ihl ihr =>
    rw [show (HuffTree.node f i l r).store.length + n = (l.store.length + (r.store.length + n)) + 1 by
      simp [HuffTree.store]; omega]
    rw [Assigner.run]
    show Assigner.run _ ⟨(l, p ++ [false]) :: (r, p ++ [true]) :: st, c⟩ = _
    rw [ihl, ihr, pathsFrom, List.append_assoc]

/-- The traversal of a root that is a node ends, with every leaf's path. -/
theorem assign_node (f i : Nat) (l r : HuffTree) :
    assign (.node f i l r) = ⟨[], pathsFrom l [false] ++ pathsFrom r [true]⟩ := by
  rw [assign, Assigner.start, ← Nat.add_zero (HuffTree.store _).length, run_subtree]
  rfl

/-! ## The errors of the decoders' loops (R203) -/

theorem walk_error {t : HuffTree} {r : BitReader} {e : ErrCode} (h : walk t r = .error e) : e = .truncated := by
  induction t generalizing r with
  | leaf s f i => cases h
  | node f i l rt ihl ihr =>
    unfold walk at h
    split at h
    · cases h; exact read_error ‹_›
    · split at h
      · exact ihr h
      · exact ihl h

theorem huffmanSymbols_error {t : HuffTree} {n : Nat} {r : BitReader} {e : ErrCode}
    (h : huffmanSymbols t n r = .error e) : e = .truncated := by
  induction n generalizing r with
  | zero => cases h
  | succ n ih =>
    unfold huffmanSymbols at h
    split at h
    · rename_i he
      cases h
      unfold huffmanSymbol at he
      split at he
      · split at he
        · cases he; exact read_error ‹_›
        · cases he
      · exact walk_error he
    · split at h
      · cases h; exact ih ‹_›
      · cases h

theorem shiftIn_error {c : Coder} {r : BitReader} {e : ErrCode} (h : c.shiftIn r = .error e) : e = .truncated := by
  unfold Coder.shiftIn at h
  split at h
  · cases h; exact bitIn_error ‹_›
  · cases h

theorem decodeInit_error {n : Nat} {c : Coder} {r : BitReader} {e : ErrCode} (h : decodeInit n c r = .error e) :
    e = .truncated := by
  induction n generalizing c r with
  | zero => cases h
  | succ n ih =>
    unfold decodeInit at h
    split at h
    · cases h; exact shiftIn_error ‹_›
    · exact ih h

theorem decodeRenorm_error {n : Nat} {c : Coder} {r : BitReader} {e : ErrCode} (h : decodeRenorm n c r = .error e) :
    e = .truncated := by
  induction n generalizing c r with
  | zero => cases h
  | succ n ih =>
    unfold decodeRenorm at h
    split at h
    · cases h
    · split at h
      · cases h; exact shiftIn_error ‹_›
      · exact ih h

theorem arithmeticSymbols_error {t : Nat} {e0 : PartEntry} {es : List PartEntry} {n : Nat} {c : Coder} {r : BitReader}
    {e : ErrCode} (h : arithmeticSymbols t e0 es n c r = .error e) : e = .truncated := by
  induction n generalizing c r with
  | zero => cases h
  | succ n ih =>
    unfold arithmeticSymbols at h
    simp only at h
    split at h
    · cases h; exact decodeRenorm_error ‹_›
    · split at h
      · cases h; exact ih ‹_›
      · cases h

/-- The commands whose body reads a block. -/
theorem bodyOf_error {i : Instr} {src : List Byte} {dc : Nat} {e : ErrCode} (h : bodyOf i src dc = .error e) :
    (i = .hdec ∨ i = .adec) ∧ (e = .modelParse ∨ e = .outputOverflow ∨ e = .truncated) := by
  cases i with
  | freq => cases h
  | henc => simp only [bodyOf, bodyHenc] at h; split at h <;> cases h
  | hcodes => simp only [bodyOf, bodyHcodes] at h; split at h <;> cases h
  | aenc => simp only [bodyOf, bodyAenc] at h; split at h <;> cases h
  | hdec =>
    refine ⟨.inl rfl, ?_⟩
    simp only [bodyOf, bodyHdec] at h
    repeat' split at h
    all_goals first
      | (cases h; exact .inl (parseHeader_error ‹_›))
      | (cases h; exact .inr (.inr (huffmanSymbols_error ‹_›)))
      | (cases h; exact .inr (.inl rfl))
      | cases h
  | adec =>
    refine ⟨.inr rfl, ?_⟩
    simp only [bodyOf, bodyAdec] at h
    repeat' split at h
    all_goals first
      | (cases h; exact .inl (parseHeader_error ‹_›))
      | (cases h; exact .inr (.inr (decodeInit_error ‹_›)))
      | (cases h; exact .inr (.inr (arithmeticSymbols_error ‹_›)))
      | (cases h; exact .inr (.inl rfl))
      | cases h

end Sys2Proof.Machine
end

