-- ==== Sys2Proof/Laws/Decode.lean ====
section
/-! SUPPORT. Laws.Decode: only CMD[3:0] decides (spec/30_encoding.md R70, R85). -/

namespace Sys2Proof

/-- The low four bits of a word as a masked word. -/
theorem and_low_nibble (w : Word) : w &&& 0x0000000F#32 = (w.extractLsb' 0 4).setWidth 32 := by
  apply BitVec.eq_of_getLsbD_eq
  intro i hi
  rw [BitVec.getLsbD_and, BitVec.getLsbD_setWidth, BitVec.getLsbD_extractLsb']
  by_cases h : i < 4
  · have : ∀ j, j < 4 → (15#32).getLsbD j = true := by decide
    simp [this i h, h, hi]
  · have : ∀ j, j < 32 → ¬ j < 4 → (15#32).getLsbD j = false := by decide
    simp [this i hi h, h]

/-- The opcode field of a zero-extended opcode is the opcode. -/
@[simp] theorem opField_setWidth (k : BitVec 4) : opField (k.setWidth 32) = k := by
  unfold opField
  apply BitVec.eq_of_getLsbD_eq
  intro i hi
  rw [BitVec.getLsbD_extractLsb', BitVec.getLsbD_setWidth]
  simp [hi]
  omega

/-- Decoding a word is decoding its opcode field. -/
theorem decode_eq_decodeOp (w : Word) : decode w = decodeOp (opField w) := by
  have hm : ∀ r ∈ opcodeTable, r.mask = 0x0000000F#32 := by decide
  have hc : ((opField w).setWidth 32) &&& 0x0000000F#32 = w &&& 0x0000000F#32 := by
    rw [and_low_nibble w, and_low_nibble]
    exact congrArg (BitVec.setWidth 32) (opField_setWidth (opField w))
  have hf : opcodeTable.find? (fun r => w &&& r.mask == r.pattern) =
      opcodeTable.find? (fun r => (opField w).setWidth 32 &&& r.mask == r.pattern) := by
    simp only [opcodeTable, List.find?, hc]
  unfold decodeOp decode
  rw [hf, opField_setWidth]

/-- The opcode of a command decodes to it. -/
@[simp] theorem decodeOp_opcode (i : Instr) : decodeOp i.opcode = .ok i := by cases i <;> decide

/-- A reserved opcode is refused by its value (R72). -/
theorem decodeOp_reserved : ∀ op : BitVec 4, (op = 0#4 ∨ 7#4 ≤ op) → decodeOp op = .error (.reservedOpcode op) := by decide

end Sys2Proof
end

