-- ==== Sys2Proof/Laws/Memory.lean ====
section
/-! SUPPORT. Laws.Memory: reads after writes, and the canonical form (spec/20_memory.md R50, R56). -/

namespace Sys2Proof.Machine.Memory

@[simp] theorem read_nil (a : Nat) : read [] a = unlisted := rfl

@[simp] theorem read_cons (k : Nat) (v : Byte) (m : Memory) (a : Nat) :
    read ((k, v) :: m) a = if a = k then v else read m a := rfl

theorem read_drop (m : Memory) (a c : Nat) : read (m.drop a) c = if c = a then unlisted else read m c := by
  induction m with
  | nil => simp [drop]
  | cons e m ih =>
    obtain ⟨k, v⟩ := e
    simp only [drop] at ih ⊢
    by_cases h : k = a
    · subst h
      by_cases hc : c = k <;> simp_all
    · by_cases hc : c = k
      · subst hc
        simp [h]
      · simp [h, hc, ih]

theorem read_put (m : Memory) (a : Nat) (b : Byte) (h : ∀ e ∈ m, e.1 ≠ a) (c : Nat) :
    read (put m a b) c = if c = a then b else read m c := by
  induction m with
  | nil => simp [put]
  | cons e m ih =>
    obtain ⟨k, v⟩ := e
    have hk : k ≠ a := h (k, v) (by simp)
    have ih := ih (fun e he => h e (by simp [he]))
    by_cases hlt : a < k
    · simp [put, hlt]
    · by_cases hc : c = k
      · subst hc
        simp [put, hlt, hk]
      · simp [put, hlt, hc, ih]

/-- A read after a write: the value written at its address, and every other address as before. -/
theorem read_write (m : Memory) (a : Nat) (b : Byte) (c : Nat) :
    read (m.write a b) c = if c = a then b else read m c := by
  by_cases hb : b = unlisted
  · simp [write, hb, read_drop]
  · rw [write, if_neg hb, read_put _ _ _ (by simp [drop]), read_drop]
    by_cases hc : c = a <;> simp [hc]

@[simp] theorem read_write_same (m : Memory) (a : Nat) (b : Byte) : read (m.write a b) a = b := by
  simp [read_write]

theorem read_write_other (m : Memory) {a c : Nat} (b : Byte) (h : c ≠ a) : read (m.write a b) c = read m c := by
  simp [read_write, h]

@[simp] theorem writeBytes_nil (m : Memory) (a : Nat) : m.writeBytes a [] = m := rfl

@[simp] theorem writeBytes_cons (m : Memory) (a : Nat) (b : Byte) (bs : List Byte) :
    m.writeBytes a (b :: bs) = (m.write a b).writeBytes (a + 1) bs := rfl

theorem read_writeBytes_outside (m : Memory) (a c : Nat) (bs : List Byte) (h : ¬ (a ≤ c ∧ c < a + bs.length)) :
    read (m.writeBytes a bs) c = read m c := by
  induction bs generalizing m a with
  | nil => rfl
  | cons b bs ih =>
    rw [List.length_cons] at h
    rw [writeBytes_cons, ih _ _ (by omega), read_write_other _ _ (by omega)]

theorem read_writeBytes_inside (m : Memory) (a i : Nat) (bs : List Byte) (h : i < bs.length) :
    read (m.writeBytes a bs) (a + i) = bs[i] := by
  induction bs generalizing m a i with
  | nil => simp at h
  | cons b bs ih =>
    rw [List.length_cons] at h
    cases i with
    | zero => rw [writeBytes_cons, read_writeBytes_outside _ _ _ _ (by omega)]; simp
    | succ i =>
      have := ih (m.write a b) (a + 1) i (by omega)
      rw [show a + 1 + i = a + (i + 1) by omega] at this
      simpa using this

/-- What was written is read back. -/
theorem readBytes_writeBytes (m : Memory) (a : Nat) (bs : List Byte) :
    (m.writeBytes a bs).readBytes a bs.length = bs := by
  apply List.ext_getElem
  · simp [readBytes]
  · intro i h1 h2
    simp [readBytes, read_writeBytes_inside m a i bs h2]

@[simp] theorem length_readBytes (m : Memory) (a n : Nat) : (m.readBytes a n).length = n := by simp [readBytes]

/-- A region no written byte lies in reads as before. -/
theorem readBytes_congr {m m' : Memory} {a n : Nat} (h : ∀ i, i < n → read m' (a + i) = read m (a + i)) :
    m'.readBytes a n = m.readBytes a n := by
  simp only [readBytes]
  exact List.map_congr_left fun i hi => h i (List.mem_range.mp hi)

/-! ## The canonical form -/

theorem wfFrom_mono {lo lo' : Nat} (m : Memory) (h : lo' ≤ lo) (hm : wfFrom lo m = true) : wfFrom lo' m = true := by
  cases m with
  | nil => rfl
  | cons e m =>
    simp only [wfFrom, Bool.and_eq_true, decide_eq_true_eq] at hm ⊢
    exact ⟨⟨⟨by omega, hm.1.1.2⟩, hm.1.2⟩, hm.2⟩

theorem wfFrom_drop (lo : Nat) (m : Memory) (a : Nat) (hm : wfFrom lo m = true) : wfFrom lo (m.drop a) = true := by
  induction m generalizing lo with
  | nil => rfl
  | cons e m ih =>
    obtain ⟨k, v⟩ := e
    simp only [wfFrom, Bool.and_eq_true, decide_eq_true_eq] at hm
    by_cases h : k = a
    · have := ih _ hm.2
      simp only [drop] at this ⊢
      simp only [h, List.filter_cons, bne_self_eq_false, Bool.false_eq_true, if_false]
      exact wfFrom_mono _ (by omega) this
    · have := ih _ hm.2
      simp only [drop] at this ⊢
      simp [h, wfFrom, hm, this]

theorem wfFrom_put (lo : Nat) (m : Memory) (a : Nat) (b : Byte) (hm : wfFrom lo m = true) (hlo : lo ≤ a)
    (ha : a < Config.addressSpace) (hb : b ≠ unlisted) (hne : ∀ e ∈ m, e.1 ≠ a) :
    wfFrom lo (put m a b) = true := by
  induction m generalizing lo with
  | nil => simp [put, wfFrom, hlo, ha, hb]
  | cons e m ih =>
    obtain ⟨k, v⟩ := e
    have hk : k ≠ a := hne (k, v) (by simp)
    simp only [wfFrom, Bool.and_eq_true, decide_eq_true_eq] at hm
    by_cases hlt : a < k
    · simp [put, hlt, wfFrom, hlo, ha, hb, hm]
    · have := ih (k + 1) hm.2 (by omega) (fun e he => hne e (by simp [he]))
      simp [put, hlt, wfFrom, hm, this]

theorem wf_write {m : Memory} {a : Nat} {b : Byte} (hm : m.wf = true) (ha : a < Config.addressSpace) :
    (m.write a b).wf = true := by
  unfold write
  split
  · exact wfFrom_drop _ _ _ hm
  · exact wfFrom_put _ _ _ _ (wfFrom_drop _ _ _ hm) (Nat.zero_le _) ha ‹_› (by simp [drop])

theorem wf_writeBytes {m : Memory} {a : Nat} {bs : List Byte} (hm : m.wf = true)
    (ha : a + bs.length ≤ Config.addressSpace) : (m.writeBytes a bs).wf = true := by
  induction bs generalizing m a with
  | nil => exact hm
  | cons b bs ih =>
    rw [List.length_cons] at ha
    exact ih (wf_write hm (by omega)) (by omega)

end Sys2Proof.Machine.Memory
end

