-- ==== Sys2Proof/Laws/Operands.lean ====
section
/-! SUPPORT. Laws.Operands: the regions of a command as inequalities (spec/20_memory.md R51 to R53), and the platform's
answers (spec/60_exceptions.md R209). -/

namespace Sys2Proof.Machine

@[simp] theorem src_base (l : Latch) : l.src.base = l.sa.toNat := rfl
@[simp] theorem src_size (l : Latch) : l.src.size = l.sl.toNat := rfl
@[simp] theorem dst_base (l : Latch) : l.dst.base = l.da.toNat := rfl
@[simp] theorem dst_size (l : Latch) : l.dst.size = l.dc.toNat := rfl

theorem contains_iff (r : Region) (a : Nat) : r.contains a = true ↔ r.base ≤ a ∧ a < r.base + r.size := by
  rw [Region.contains, Bool.and_eq_true, decide_eq_true_iff, decide_eq_true_iff]

theorem overlaps_iff (r q : Region) :
    r.overlaps q = true ↔ (0 < r.size ∧ 0 < q.size ∧ r.base < q.base + q.size ∧ q.base < r.base + r.size) := by
  rw [Region.overlaps, Bool.and_eq_true, Bool.and_eq_true, Bool.and_eq_true, decide_eq_true_iff, decide_eq_true_iff,
    decide_eq_true_iff, decide_eq_true_iff, and_assoc, and_assoc]

theorem fits_iff (r : Region) : r.fits = true ↔ r.base + r.size ≤ 2 ^ 32 := by
  rw [Region.fits, decide_eq_true_iff, Config.addressSpace]

/-- A region with an address that gets an answer gets it. -/
theorem answers_of_address {p : Platform} {dir : DmaDir} {r : Region} {a : Nat} {ans : BusAnswer} (h1 : r.base ≤ a)
    (h2 : a < r.base + r.size) (h : p.answers dir ⟨a, 1⟩ ans = true) : p.answers dir r ans = true := by
  unfold Platform.answers at h ⊢
  rw [List.any_eq_true] at h ⊢
  obtain ⟨b, hb, h⟩ := h
  refine ⟨b, hb, ?_⟩
  rw [Bool.and_eq_true, overlaps_iff] at h ⊢
  exact ⟨h.1, by have := h.2.1; omega, by omega, by have := h.2.2.2.1; simp at this; omega,
    by have := h.2.2.2.2; simp at this; omega⟩

/-- A region that gets an answer has an address that does. -/
theorem address_of_answers {p : Platform} {dir : DmaDir} {r : Region} {ans : BusAnswer}
    (h : p.answers dir r ans = true) : ∃ a, r.base ≤ a ∧ a < r.base + r.size ∧ p.answers dir ⟨a, 1⟩ ans = true := by
  unfold Platform.answers at h
  rw [List.any_eq_true] at h
  obtain ⟨b, hb, h⟩ := h
  rw [Bool.and_eq_true, overlaps_iff] at h
  refine ⟨max r.base b.region.base, by omega, by omega, ?_⟩
  unfold Platform.answers
  rw [List.any_eq_true]
  refine ⟨b, hb, ?_⟩
  rw [Bool.and_eq_true, overlaps_iff]
  exact ⟨h.1, by omega, Nat.one_pos, by simp only; omega, by simp only; omega⟩

/-- A platform that answers every access. -/
theorem answers_never {p : Platform} (h : ∀ b ∈ p.busRules, b.answer ≠ .never) (dir : DmaDir) (r : Region) :
    p.answers dir r .never = false := by
  unfold Platform.answers
  rw [List.any_eq_false]
  intro b hb
  simp [h b hb]

/-- What a set of DMA accesses ends with, when every access is answered (R54, R209). -/
theorem dma_answered {s : State} {dir : DmaDir} {r : Region} (h : s.platform.answers dir r .never = false) :
    s.dma dir r = if s.platform.answers dir r .error then .error else .ok := by
  simp [State.dma, h]

end Sys2Proof.Machine
end

