-- ==== Sys2Proof/Laws/Port.lean ====
section
/-! SUPPORT. Laws.Port: everything a register write and a host action can do, said once. -/

namespace Sys2Proof.Machine

/-- An access as the register map makes it is answered, and reaches its register (spec/10_state.md R22). -/
theorem accessOf_wf (base : Word) (c : Csr) : (accessOf base c).wf base = true := by
  simp only [PortAccess.wf, PortAccess.offset, accessOf, BitVec.add_comm base, BitVec.add_sub_cancel]
  cases c <;> decide

theorem csrAt_accessOf (base : Word) (c : Csr) : csrAt ((accessOf base c).offset base) = c := by
  simp only [PortAccess.offset, accessOf, BitVec.add_comm base, BitVec.add_sub_cancel]
  cases c <;> rfl

/-- Everything a register write can do: a reset, an accepted START, an acknowledgement, or new values of IRQ_EN, CMD and the
operand registers. -/
theorem writeCsr_cases (s : State) (c : Csr) (v : Word) :
    (c = .ctrl ∧ v.getLsbD 1 = true ∧ s.writeCsr c v = s.resetCore) ∨
    (c = .ctrl ∧ s.busy = false ∧ s.writeCsr c v = ({ s with irqEn := v.getLsbD 2 } : State).acceptStart) ∨
    (c = .status ∧ v.getLsbD 1 = true ∧ s.writeCsr c v = s.acknowledge) ∨
    (∃ irqEn cmdOp sa sl da dc, s.writeCsr c v =
      { s with irqEn := irqEn, cmdOp := cmdOp, srcAddr := sa, srcLen := sl, dstAddr := da, dstCap := dc }) := by
  cases c
  case ctrl =>
    unfold State.writeCsr State.writeCtrl
    dsimp only
    split
    · exact .inl ⟨rfl, ‹_›, rfl⟩
    · split
      · refine .inr (.inl ⟨rfl, by simp_all, rfl⟩)
      · exact .inr (.inr (.inr ⟨_, _, _, _, _, _, rfl⟩))
  case status =>
    unfold State.writeCsr State.writeStatus
    dsimp only
    split
    · exact .inr (.inr (.inl ⟨rfl, ‹_›, rfl⟩))
    · exact .inr (.inr (.inr ⟨_, _, _, _, _, _, rfl⟩))
  all_goals unfold State.writeCsr; dsimp only
  all_goals first
    | exact .inr (.inr (.inr ⟨_, _, _, _, _, _, rfl⟩))
    | (split <;> exact .inr (.inr (.inr ⟨_, _, _, _, _, _, rfl⟩)))

/-- Everything a store of the host can do. -/
theorem hostStore_cases (s : State) (a : Nat) (b : Byte) :
    (∃ r, s.running = some r ∧ s.hostStore a b = { s.putByte a b with running := some (r.noteWrite a) }) ∨
    (s.running = none ∧ s.hostStore a b = s.putByte a b) ∨
    (∃ l, s.running = none ∧ s.unseen = some l ∧ l.touches a = true ∧
      s.hostStore a b = ((s.putByte a b).scrubWindow l).unspecifiedOutcome) := by
  unfold State.hostStore
  cases hr : s.running with
  | some r => exact .inl ⟨r, rfl, rfl⟩
  | none =>
    cases hu : s.unseen with
    | none => exact .inr (.inl ⟨rfl, rfl⟩)
    | some l =>
      cases ht : l.touches a with
      | true => exact .inr (.inr ⟨l, rfl, rfl, ht, by simp [ht]⟩)
      | false => exact .inr (.inl ⟨rfl, by simp [ht]⟩)

/-- Everything the host's turn can be; `es` is what stays queued, or all of it where the host waits on. -/
theorem hostTurn_cases (s : State) :
    s.hostTurn = s ∨
    ∃ es, let t : State := { s with inputs := es }
      (∃ c, s.hostTurn = t.readCsr c) ∨ s.hostTurn = t.refuseAccess ∨
      (∃ c v, s.hostTurn = { t.writeCsr c v with resp := some .ack }) ∨
      (∃ a b, s.inputs = .memWrite a b :: es ∧ s.hostTurn = t.hostStore a.toNat b) ∨
      (∃ a, s.hostTurn = t.hostLoad a) ∨ s.hostTurn = t.maintain ∨ s.hostTurn = t.takeIrq ∨ s.hostTurn = t.resetCore := by
  unfold State.hostTurn
  split
  · exact .inl rfl
  · refine .inr ?_
    split
    · exact ⟨_, .inl ⟨_, rfl⟩⟩
    · exact ⟨s.inputs, .inl ⟨.status, rfl⟩⟩
  · rename_i es _
    refine .inr ⟨es, ?_⟩
    unfold State.portWrite
    split
    · exact .inr (.inr (.inl ⟨_, _, rfl⟩))
    · exact .inr (.inl rfl)
  · rename_i es _
    refine .inr ⟨es, ?_⟩
    unfold State.portRead
    split
    · exact .inl ⟨_, rfl⟩
    · exact .inr (.inl rfl)
  · exact .inr ⟨_, .inr (.inr (.inr (.inl ⟨_, _, ‹_›, rfl⟩)))⟩
  · exact .inr ⟨_, .inr (.inr (.inr (.inr (.inl ⟨_, rfl⟩))))⟩
  · split
    · exact .inr ⟨_, .inr (.inr (.inr (.inr (.inr (.inr (.inl rfl))))))⟩
    · exact .inl rfl
  · exact .inr ⟨_, .inr (.inr (.inr (.inr (.inr (.inl rfl)))))⟩
  · exact .inr ⟨_, .inr (.inr (.inr (.inr (.inr (.inr (.inr rfl))))))⟩

/-- A reset when no command runs leaves memory (spec/70_reset_and_hazards.md R230). -/
theorem resetCore_mem_idle {s : State} (h : s.running = none) : s.resetCore.mem = s.mem := by
  simp [State.resetCore, State.abandon, h]

end Sys2Proof.Machine
end

