-- ==== Sys2Proof/Laws/Step.lean ====
section
/-! SUPPORT. Laws.Step: everything a step can do, said once (spec/70_reset_and_hazards.md R239; log 1, 2). -/

namespace Sys2Proof.Machine

/-- A turn used up while a command runs takes the head of the schedule. -/
theorem takeTurn_busy {s : State} {r : Running} (h : s.running = some r) :
    s.takeTurn = { s with schedule := s.schedule.tail } := by
  simp [State.takeTurn, State.busy, h]

theorem takeTurn_idle {s : State} (h : s.running = none) : s.takeTurn = s := by simp [State.takeTurn, State.busy, h]

/-- The core moves only when a command runs that is not waiting for a DMA answer. -/
theorem running_of_coreMoves {s : State} (h : s.coreMoves = true) : ∃ r, s.running = some r ∧ r.stalled = false := by
  unfold State.coreMoves at h
  cases hr : s.running with
  | none => simp [hr] at h
  | some r => exact ⟨r, rfl, by simp_all⟩

/-- Everything a step can do. -/
theorem step_cases (s : State) :
    (∃ r i, s.running = some r ∧ r.stalled = false ∧ decodeOp r.latch.op = .ok i ∧
      step s = .next (({ s with schedule := s.schedule.tail } : State).frame i r (bodyOf i))) ∨
    (∃ r e, s.running = some r ∧ r.stalled = false ∧ decodeOp r.latch.op = .error e ∧
      step s = .next (({ s with schedule := s.schedule.tail } : State).rejectReserved r)) ∨
    (s.coreMoves = false ∧ step s = .next s.takeTurn.hostTurn) := by
  cases hm : s.coreMoves with
  | false => exact .inr (.inr ⟨rfl, by simp [step, hm]⟩)
  | true =>
    obtain ⟨r, hr, hs⟩ := running_of_coreMoves hm
    have ht := takeTurn_busy hr
    cases hd : decodeOp r.latch.op with
    | ok i =>
      refine .inl ⟨r, i, hr, hs, hd, ?_⟩
      rw [← exec_running i (s := ({ s with schedule := s.schedule.tail } : State)) hr]
      simp [step, hm, ht, coreStep, hr, hd]
    | error e => exact .inr (.inl ⟨r, e, hr, hs, hd, by simp [step, hm, ht, coreStep, hr, hd]⟩)

/-- A step always gives a next state: no state of this machine stops it. -/
theorem step_next (s : State) : ∃ s', step s = .next s' := by
  rcases step_cases s with ⟨_, _, _, _, _, e⟩ | ⟨_, _, _, _, _, e⟩ | ⟨_, e⟩ <;> exact ⟨_, e⟩

end Sys2Proof.Machine
end

