-- ==== Sys2Proof/Tests/Slice0.lean ====
section
/-! SUPPORT. Tests: the smoke tests of WellFormed and of the decoder, at most two small tests per command with results
from spec/95_test_vectors.md, and for every obligation with hypotheses a witness that meets them. -/

namespace Sys2Proof.Tests

open Sys2Proof Sys2Proof.Machine

set_option Elab.async false

/-! ## Helpers -/

/-- A latched command with its source at 0x1000 and its window at 0x2000. -/
def demoLatch (op : BitVec 4) (sl dc : Nat) : Latch := ⟨op, 0x1000#32, BitVec.ofNat 32 sl, 0x2000#32, BitVec.ofNat 32 dc⟩

def demoRun (i : Instr) (sl dc : Nat) : Running := ⟨demoLatch i.opcode sl dc, false, false, false⟩

/-- A state whose only command is `r`, with these bytes at 0x1000. -/
def stateOf (src : List Byte) (r : Running) : State :=
  { State.reset with mem := Memory.writeBytes [] 0x1000 src, running := some r, work := Work.init }

/-- The command `i` runs on the bytes `src` at 0x1000 with the window [0x2000, 0x2000 + dc). -/
def demo (i : Instr) (src : List Byte) (dc : Nat) : State := stateOf src (demoRun i src.length dc)

/-- What a step reports: result bytes, STATUS, SYM_COUNT. -/
def report (s : State) : List Byte × Word × Word :=
  match step s with
  | .next t => (t.mem.readBytes 0x2000 t.dstLen.toNat, t.statusWord, t.symCount)
  | .fault _ => ([], 0#32, 0#32)
  | .refused _ => ([], 0#32, 0#32)

/-- A reading of `source` that the kernel need not compute twice. -/
def srcOf (s : State) (sl : Nat) : List Byte := s.mem.readBytes 0x1000 sl

def bus (dir : DmaDir) (a : Nat) (ans : BusAnswer) : Platform := ⟨0#32, true, [⟨dir, ⟨a, 1⟩, ans⟩]⟩

def ascii (l : List Nat) : List Byte := l.map (BitVec.ofNat 8)

def abcc : List Byte := ascii [0x41, 0x42, 0x43, 0x43]
def aab : List Byte := ascii [0x41, 0x41, 0x42]
def cccc : List Byte := ascii [0x43, 0x43, 0x43, 0x43]

/-- The HENC block of "ABCC" (spec/95 section 2.3). -/
def hencAbcc : List Byte :=
  ascii [0x00, 0x03, 0x41, 0, 0, 0, 1, 0x42, 0, 0, 0, 1, 0x43, 0, 0, 0, 2, 0x02, 0xB0]

/-- The AENC block of "ABCC" (spec/95 section 2.6). -/
def aencAbcc : List Byte :=
  ascii [0x00, 0x03, 0x41, 0, 0, 0, 1, 0x42, 0, 0, 0, 1, 0x43, 0, 0, 0, 2, 0, 0, 0, 4, 0x00, 0x1D]

/-- The model of "ABCC". -/
def modelAbc : FreqModel := [(0x41#8, 1), (0x42#8, 1), (0x43#8, 2)]

def hencWriter : BitWriter := huffmanWriter (codesOfModel modelAbc) abcc

/-- What AENC leaves of the working state after "ABCC". -/
def aencWork : Work :=
  { modelWork modelAbc with
    coder := (arithmeticEncode modelAbc abcc).1
    writer := (arithmeticEncode modelAbc abcc).2.regs }

/-! ## WellFormed: an ill-formed term for each check (spec/20_memory.md R59, spec/30_encoding.md R70, R77) -/

theorem test_wf_refuses_byte_access : PortAccess.wf 0x4000#32 ⟨0x4008#32, 1⟩ = false := by decide
theorem test_wf_refuses_misaligned_access : PortAccess.wf 0x4000#32 ⟨0x4002#32, 4⟩ = false := by decide
theorem test_wf_refuses_access_past_window : PortAccess.wf 0x4000#32 ⟨0x4100#32, 4⟩ = false := by decide
theorem test_wf_refuses_access_before_window : PortAccess.wf 0x4000#32 ⟨0x3FFC#32, 4⟩ = false := by decide
theorem test_wf_admits_last_word : PortAccess.wf 0x4000#32 ⟨0x40FC#32, 4⟩ = true := by decide
theorem test_wf_refuses_reserved_command_bits : cmdWordCanonical 0x00000012#32 = false := by decide
theorem test_wf_refuses_257_records : FreqModel.wf (List.replicate 257 (0x41#8, 1)) = false := by decide +kernel
theorem test_wf_refuses_unsorted_model : FreqModel.wf [(0x42#8, 1), (0x41#8, 1)] = false := by decide +kernel
theorem test_wf_refuses_repeated_symbol : FreqModel.wf [(0x41#8, 1), (0x41#8, 1)] = false := by decide +kernel
theorem test_wf_refuses_zero_count : FreqModel.wf [(0x41#8, 0), (0x42#8, 1)] = false := by decide +kernel
theorem test_wf_refuses_total_over_max_len : FreqModel.wf [(0x41#8, 0x40000000), (0x42#8, 1)] = false := by decide +kernel
theorem test_wf_every_command : ∀ i : Instr, i.wf = true := by intro i; cases i <;> rfl

/-! ## Decode: words written out from spec/30_encoding.md R70, R71 -/

theorem test_decode_freq : decode 0b00000000000000000000000000000001#32 = .ok .freq := by decide
theorem test_decode_henc : decode 0b00000000000000000000000000000010#32 = .ok .henc := by decide
theorem test_decode_hdec : decode 0b00000000000000000000000000000011#32 = .ok .hdec := by decide
theorem test_decode_hcodes : decode 0b00000000000000000000000000000100#32 = .ok .hcodes := by decide
theorem test_decode_aenc : decode 0b00000000000000000000000000000101#32 = .ok .aenc := by decide
theorem test_decode_adec : decode 0b00000000000000000000000000000110#32 = .ok .adec := by decide
theorem test_decode_ignores_high_bits : decode 0xFFFFFFF5#32 = .ok .aenc := by decide
theorem test_decode_reserved_zero : decode 0x00000010#32 = .error (.reservedOpcode 0#4) := by decide
theorem test_decode_reserved_seven : decode 0x00000007#32 = .error (.reservedOpcode 7#4) := by decide
theorem test_decode_table_word : decodeTableWord 32 3 = some .hdec ∧ decodeTableWord 32 8 = none := by decide

/-! ## Commands (spec/95 sections 2.1 to 2.7) -/

theorem test_freq_orders_symbols :
    report (demo .freq (ascii [0xFF, 0x00, 0xFF]) 64) =
      (ascii [0, 2, 0x00, 0, 0, 0, 1, 0xFF, 0, 0, 0, 2], 0x00000002#32, 3#32) := by decide +kernel
theorem test_freq_zero_capacity : (report (demo .freq abcc 0)).2 = (0x00000406#32, 0#32) := by decide +kernel
theorem test_henc_leaf_wins_tie : report (demo .henc abcc 64) = (hencAbcc, 0x00000002#32, 4#32) := by decide +kernel
theorem test_henc_single_symbol :
    report (demo .henc cccc 64) = (ascii [0, 1, 0x43, 0, 0, 0, 4, 4, 0], 0x00000002#32, 4#32) := by decide +kernel
theorem test_hdec_flipped_bits :
    report (demo .hdec (ascii [0, 2, 0x41, 0, 0, 0, 1, 0x42, 0, 0, 0, 1, 6, 0xC0]) 64) =
      (ascii [0x42, 0x42], 0x00000002#32, 2#32) := by decide +kernel
theorem test_hdec_truncated :
    (report (demo .hdec (ascii [0, 1, 0x43, 0, 0, 0, 4, 5, 0]) 64)).2 = (0x00000206#32, 0#32) := by decide +kernel
theorem test_hcodes_lengths :
    report (demo .hcodes abcc 64) =
      (ascii [0, 3, 0x41, 2, 0x80, 0x42, 2, 0xC0, 0x43, 1, 0], 0x00000002#32, 4#32) := by decide +kernel
theorem test_hcodes_empty : report (demo .hcodes [] 64) = (ascii [0, 0], 0x0000000A#32, 0#32) := by decide +kernel
theorem test_aenc_block : report (demo .aenc abcc 64) = (aencAbcc, 0x00000002#32, 4#32) := by decide +kernel
theorem test_aenc_single_symbol :
    report (demo .aenc cccc 64) =
      (ascii [0, 1, 0x43, 0, 0, 0, 4, 0, 0, 0, 4, 0], 0x00000002#32, 4#32) := by decide +kernel
theorem test_adec_any_payload :
    report (demo .adec (ascii [0, 2, 0x41, 0, 0, 0, 1, 0x42, 0, 0, 0, 1, 0, 0, 0, 2, 0, 0xFF]) 64) =
      (ascii [0x42, 0x42], 0x00000002#32, 2#32) := by decide +kernel
theorem test_adec_truncated_at_third_symbol :
    (report (demo .adec (ascii [0, 5, 0x41, 0, 0, 0, 5, 0x42, 0, 0, 0, 2, 0x43, 0, 0, 0, 1, 0x44, 0, 0, 0, 1, 0x52,
      0, 0, 0, 2, 0, 0, 0, 11, 1, 0x47]) 64)).2 = (0x00000206#32, 0#32) := by decide +kernel

/-! ## Registers and events (spec/95 section 2.9) -/

theorem test_cmd_reads_low_nibble : (State.reset.writeCsr .cmd 0xFFFFFFF5#32).csrValue .cmd = 0x5#32 := by decide +kernel
theorem test_ctrl_reads_irq_en : (State.reset.writeCsr .ctrl 0x4#32).csrValue .ctrl = 0x4#32 := by decide +kernel
theorem test_soft_reset_starts_nothing :
    ((State.reset.writeCsr .ctrl 0x4#32).writeCsr .ctrl 0x3#32).running = none ∧
      ((State.reset.writeCsr .ctrl 0x4#32).writeCsr .ctrl 0x3#32).csrValue .ctrl = 0#32 := by decide +kernel
theorem test_ack_keeps_error :
    ((State.reset.completeErr .modelParse).writeCsr .status 0x2#32).statusWord = 0x00000104#32 := by decide +kernel
theorem test_byte_write_refused :
    State.reset.portWrite ⟨0x08#32, 1⟩ 1#32 = { State.reset with resp := some .busError } := by decide +kernel
theorem test_memory_write_canonical :
    Memory.write (Memory.write (Memory.write [] 5 1#8) 3 2#8) 5 0#8 = [(3, 2#8)] := by decide +kernel
theorem test_status_read_observes_completion :
    (((demo .freq abcc 0).rejectReserved (demoRun .freq 4 0)).readCsr .status).unseen = none ∧
      ((demo .freq abcc 0).rejectReserved (demoRun .freq 4 0)).unseen = some (demoLatch 1#4 4 0) := by decide +kernel
theorem test_stale_source_stays_stale_after_maintenance :
    let s : State :=
      { State.reset with platform := ⟨0#32, false, []⟩, hostDirty := [⟨0x1000, 1⟩], srcAddr := 0x1000#32, srcLen := 1#32 }
    (s.acceptStart.maintain.running).map (fun r => r.stale) = some true ∧
      (s.maintain.acceptStart.running).map (fun r => r.stale) = some false := by decide +kernel
theorem test_run_steps :
    runSteps 0x100#32 .aenc 1#32 2#32 3#32 4#32 true =
      [.regWrite ⟨0x110#32, 4⟩ 1#32, .regWrite ⟨0x114#32, 4⟩ 2#32, .regWrite ⟨0x118#32, 4⟩ 3#32,
       .regWrite ⟨0x11C#32, 4⟩ 4#32, .regWrite ⟨0x10C#32, 4⟩ 5#32, .regWrite ⟨0x108#32, 4⟩ 5#32] := by decide +kernel

/-! ## Witnesses: for each obligation with hypotheses, states and operands that meet them -/

def henc9 : State := demo .henc abcc 64

/-- A running command with latches of one's own. -/
def runL (i : Instr) (sa sl da dc : Word) : Running := ⟨⟨i.opcode, sa, sl, da, dc⟩, false, false, false⟩

theorem witness_OpcodeMapDecodesEveryWord :
    ∃ w1 w2 w3 w4 w5 w6 w0 w7 w15 : Word,
      w1.extractLsb' 0 4 = 1#4 ∧ w2.extractLsb' 0 4 = 2#4 ∧ w3.extractLsb' 0 4 = 3#4 ∧ w4.extractLsb' 0 4 = 4#4 ∧
      w5.extractLsb' 0 4 = 5#4 ∧ w6.extractLsb' 0 4 = 6#4 ∧ w0.extractLsb' 0 4 = 0#4 ∧ 7#4 ≤ w7.extractLsb' 0 4 ∧
      7#4 ≤ w15.extractLsb' 0 4 :=
  ⟨0xFFFFFFF1#32, 2#32, 3#32, 4#32, 0x15#32, 6#32, 0x10#32, 7#32, 0xFFFFFFFF#32, by decide⟩

theorem witness_StepRunsTheLatchedCommand :
    (∀ e ∈ ([.regWrite ⟨0x08#32, 4⟩ 1#32, .regRead ⟨0x20#32, 4⟩, .memWrite 0#32 1#8, .memRead 0#32, .wait, .takeIrq,
        .maintain, .resetPin] : List HostEvent),
      ({ State.reset with inputs := [e] } : State).coreMoves = false ∧
        ({ henc9 with inputs := [e], schedule := [.host] } : State).coreMoves = false) ∧
      State.reset.inputs = [] ∧ (State.reset.completeErr .length).done = true ∧ State.reset.done = false ∧
      ({ State.reset.completeErr .length with irqEn := true } : State).irq = true ∧ State.reset.irq = false ∧
      henc9.running = some (demoRun .henc 4 64) ∧ henc9.coreMoves = true ∧
      decodeOp (demoRun .henc 4 64).latch.op = .ok .henc ∧
      (stateOf [] ⟨demoLatch 7#4 0 0, false, false, false⟩).coreMoves = true ∧
      decodeOp (demoLatch 7#4 0 0).op = .error (.reservedOpcode 7#4) := by decide +kernel

theorem witness_FetchedWordRunsNext :
    decodeTableWord 32 1 = some .freq ∧ decodeTableWord 4 6 = some .adec := by decide

theorem witness_IdleCoreLeavesMemoryAlone :
    State.reset.running = none ∧ State.reset.inputs = [] ∧
      (∀ a b es, ({ State.reset with inputs := [.resetPin] } : State).inputs ≠ .memWrite a b :: es) := by
  refine ⟨rfl, rfl, ?_⟩
  intro a b es h
  cases h

theorem witness_RunningCommandEnds :
    henc9.running = some (demoRun .henc 4 64) ∧ (demoRun .henc 4 64).stalled = false ∧
      (stateOf abcc (demoRun .henc 4 64)).platform.answers .read (demoRun .henc 4 64).latch.src .never = false := by
  decide +kernel

theorem witness_AcceptedStartLatchesOperands :
    State.reset.running = none ∧ (0x5#32).getLsbD 1 = false ∧ (0x5#32).getLsbD 0 = true := by decide

theorem witness_OperandWritesFollowBusy :
    henc9.busy = true ∧ (0x5#32).getLsbD 1 = false ∧ (0x3#32).getLsbD 1 = true ∧ henc9.done = false ∧
      State.reset.busy = false ∧ (State.reset.completeErr .length).busy = false ∧
      (State.reset.completeErr .length).done = true ∧
      (4#32).getLsbD 1 = false ∧ (4#32).getLsbD 0 = false ∧ (0#32).getLsbD 1 = false ∧ (0#32).getLsbD 0 = false := by
  decide +kernel

theorem witness_PortAcceptsOnlyAlignedWords :
    0 < 64 ∧ 63 < 64 ∧ (csrAt (4 * 8) = .status ∧ (State.reset.completeErr .length).done = true) ∧
    (PortAccess.mk 0x08#32 1).bytes ≠ 4 ∧
      ((PortAccess.mk 0x09#32 4).addr - State.reset.platform.regBase).toNat % 4 ≠ 0 ∧
      256 ≤ ((PortAccess.mk 0x100#32 4).addr - State.reset.platform.regBase).toNat := by decide

theorem witness_RegisterMap : 12 ≤ 12 ∧ 12 ≤ 63 ∧ State.reset.busy = false := by decide

theorem witness_AcknowledgeClearsOnlyDone :
    (0x00000002#32).getLsbD 1 = true ∧ (0xFFFFFFFD#32).getLsbD 1 = false := by decide

theorem witness_SoftResetWins :
    (0x00000002#32).getLsbD 1 = true ∧ (0xFFFFFFFF#32).getLsbD 1 = true ∧
      ({ State.reset with inputs := [.resetPin] } : State).inputs = .resetPin :: [] := by decide

theorem witness_ResetKeepsMemory :
    State.reset.running = none ∧ henc9.running = some (demoRun .henc 4 64) ∧
      ¬ ((demoRun .henc 4 64).latch.da.toNat ≤ 0x1FFF ∧
        0x1FFF < (demoRun .henc 4 64).latch.da.toNat + (demoRun .henc 4 64).latch.dc.toNat) ∧
      ¬ ((demoRun .henc 4 64).latch.da.toNat ≤ 0x2040 ∧
        0x2040 < (demoRun .henc 4 64).latch.da.toNat + (demoRun .henc 4 64).latch.dc.toNat) := by decide +kernel

theorem witness_EveryStepKeepsInv : henc9.Inv ∧ ∃ t, step henc9 = .next t :=
  ⟨⟨by decide +kernel, by decide +kernel, by decide +kernel, by decide +kernel, fun _ _ => rfl, fun _ => rfl⟩,
    step_next henc9⟩

theorem witness_WorkingStateStaysBounded :
    henc9.work.Fits ∧ (∃ t, step henc9 = .next t) ∧ FreqModel.wf modelAbc = true ∧ (buildTree modelAbc).isSome = true :=
  ⟨⟨by decide +kernel, by decide +kernel, by decide +kernel, by decide +kernel, by decide +kernel, by decide +kernel, by decide +kernel,
    by decide +kernel, by decide +kernel⟩, step_next henc9, by decide +kernel, by decide +kernel⟩

theorem witness_ReservedOpcodeCompletesWithBadCommand :
    (stateOf [] ⟨demoLatch 0#4 0 0, false, false, false⟩).running =
        some ⟨demoLatch 0#4 0 0, false, false, false⟩ ∧
      (demoLatch 0#4 0 0).op = 0#4 ∧ 7#4 ≤ (demoLatch 7#4 0 0).op ∧ 7#4 ≤ (demoLatch 15#4 0 0).op := by decide +kernel

/-- Operands for each clause: the source passes 2^32 by one, the window does, the regions share one byte. -/
theorem witness_BadRegionsEndWithBadConfig :
    let a := runL .henc 0xFFFFFFF8#32 9#32 0x2000#32 0x40#32
    let b := runL .henc 0x1000#32 9#32 0xFFFFFFFF#32 2#32
    let c := runL .henc 0x1000#32 9#32 0x1008#32 1#32
    (stateOf [] a).running = some a ∧ a.hazard = false ∧ 2 ^ 32 < a.latch.sa.toNat + a.latch.sl.toNat ∧
      2 ^ 32 < b.latch.da.toNat + b.latch.dc.toNat ∧
      0 < c.latch.sl.toNat ∧ 0 < c.latch.dc.toNat ∧ c.latch.sa.toNat < c.latch.da.toNat + c.latch.dc.toNat ∧
      c.latch.da.toNat < c.latch.sa.toNat + c.latch.sl.toNat := by decide +kernel

theorem witness_OverlongSourceEndsEncodersWithLength :
    let a := runL .freq 0#32 0x40000000#32 0x80000000#32 0x100#32
    (stateOf [] a).running = some a ∧ a.hazard = false ∧ a.latch.sa.toNat + a.latch.sl.toNat ≤ 2 ^ 32 ∧
      a.latch.da.toNat + a.latch.dc.toNat ≤ 2 ^ 32 ∧ a.latch.sa.toNat + a.latch.sl.toNat ≤ a.latch.da.toNat ∧
      0x3FFFFFFF < a.latch.sl.toNat ∧
      (runL .freq 0#32 0x40000000#32 0x2000#32 0#32).latch.dc.toNat = 0 ∧
      (runL .freq 0x80000100#32 0x40000000#32 0x80000000#32 0x100#32).latch.da.toNat + 0x100 ≤ 0x80000100 ∧
      (demoRun .hdec 19 64).hazard = false ∧
      (report (demo .hdec hencAbcc 64)) = (abcc, 0x00000002#32, 4#32) ∧
      parseHeader hencAbcc false = .ok ⟨[(0x41#8, 1), (0x42#8, 1), (0x43#8, 2)], 4, [0xB0#8], 6⟩ := by decide +kernel

/-- A bus error on the last source byte, and on the last result byte. -/
theorem witness_BusErrorEndsTheCommand :
    let s : State := { henc9 with platform := bus .read 0x1003 .error }
    let t : State := { henc9 with platform := bus .write 0x2012 .error }
    let r := demoRun .henc 4 64
    s.running = some r ∧ r.hazard = false ∧ preCheck .henc r.latch = none ∧
      (∀ b ∈ s.platform.busRules, b.answer ≠ .never) ∧ s.platform.answers .read ⟨0x1003, 1⟩ .error = true ∧
      t.running = some r ∧ t.unstable r = false ∧ (∀ b ∈ t.platform.busRules, b.answer ≠ .never) ∧
      t.dma .read r.latch.src = .ok ∧ bodyOf .henc (t.source r.latch) 64 = .ok ⟨hencAbcc, 4, codeWork modelAbc hencWriter⟩ ∧
      hencAbcc.length ≤ r.latch.dc.toNat ∧ 0x2012 < r.latch.da.toNat + hencAbcc.length ∧
      t.platform.answers .write ⟨0x2012, 1⟩ .error = true := by decide +kernel

/-- A window one byte too small, a bad header, a total one above the capacity. -/
theorem witness_CapacityErrors :
    (demo .henc abcc 18).Admits .henc (demoRun .henc 4 18) ∧
      bodyOf .henc ((demo .henc abcc 18).source (demoRun .henc 4 18).latch) 18 = .ok ⟨hencAbcc, 4, codeWork modelAbc hencWriter⟩ ∧
      18 < hencAbcc.length ∧
      (demo .adec [0#8] 0).Admits .adec (demoRun .adec 1 0) ∧
      parseHeader ((demo .adec [0#8] 0).source (demoRun .adec 1 0).latch) true = .error .modelParse ∧
      (demo .hdec hencAbcc 3).Admits .hdec (demoRun .hdec 19 3) ∧
      parseHeader ((demo .hdec hencAbcc 3).source (demoRun .hdec 19 3).latch) false =
        .ok ⟨[(0x41#8, 1), (0x42#8, 1), (0x43#8, 2)], 4, [0xB0#8], 6⟩ ∧
      3 < 4 := by decide +kernel

/-- A command that completes, without an error and with one. -/
theorem witness_completions :
    henc9.running = some (demoRun .henc 4 64) ∧ henc9.unstable (demoRun .henc 4 64) = false ∧
      (henc9.frame .henc (demoRun .henc 4 64) bodyHenc).running = none ∧
      (henc9.frame .henc (demoRun .henc 4 64) bodyHenc).errCode = .noError ∧
      (demoRun .hdec 0 8).hazard = false ∧
      ((demo .hdec [] 8).frame .hdec (demoRun .hdec 0 8) bodyHdec).running = none ∧
      ((demo .hdec [] 8).frame .hdec (demoRun .hdec 0 8) bodyHdec).errCode ≠ .noError := by decide +kernel

theorem witness_OutcomeCodes :
    ∃ t u, exec .henc henc9 = .next t ∧ t.running = none ∧
      exec .hdec (demo .hdec [] 8) = .next u ∧ u.running = none :=
  ⟨_, _, exec_running .henc (r := demoRun .henc 4 64) rfl, by decide +kernel,
    exec_running .hdec (r := demoRun .hdec 0 8) rfl, by decide +kernel⟩

theorem witness_FailedCommandsReportNoOutput :
    (demo .hdec [] 8).running = some (demoRun .hdec 0 8) ∧ (demoRun .hdec 0 8).hazard = false ∧
      ∃ u, coreStep (demo .hdec [] 8) = .next u ∧ u.running = none ∧ u.errCode ≠ .noError :=
  ⟨rfl, by decide +kernel, _, exec_running .hdec (r := demoRun .hdec 0 8) rfl, by decide +kernel, by decide +kernel⟩

theorem witness_SuccessStoresExactlyTheResult :
    henc9.running = some (demoRun .henc 4 64) ∧ henc9.unstable (demoRun .henc 4 64) = false ∧
      ∃ u, exec .henc henc9 = .next u ∧ u.running = none ∧ u.errCode = .noError :=
  ⟨rfl, by decide +kernel, _, exec_running .henc (r := demoRun .henc 4 64) rfl, by decide +kernel, by decide +kernel⟩

theorem witness_CompletionRaisesIrq : ∃ t, exec .henc henc9 = .next t ∧ t.running = none :=
  ⟨_, exec_running .henc (r := demoRun .henc 4 64) rfl, by decide +kernel⟩

/-- A command that is never answered goes on running. -/
def stalled9 : State := { henc9 with platform := bus .read 0x1000 .never }

theorem witness_CommandsKeepTheOtherRegisters : ∃ t, exec .henc stalled9 = .next t ∧ t.running ≠ none :=
  ⟨_, exec_running .henc (r := demoRun .henc 4 64) rfl, by decide +kernel⟩

theorem witness_NoByteOutsideTheWindowChanges :
    henc9.running = some (demoRun .henc 4 64) ∧ (∃ t, exec .henc henc9 = .next t) ∧
      ¬ (0x2000 ≤ 0x2040 ∧ 0x2040 < 0x2000 + 64) ∧ (demoRun .henc 4 64).latch.da.toNat = 0x2000 ∧
      (demoRun .henc 4 64).latch.dc.toNat = 64 :=
  ⟨rfl, ⟨_, exec_running .henc (r := demoRun .henc 4 64) rfl⟩, by decide, by decide, by decide⟩

theorem witness_NoDmaLeavesMemory :
    preCheck .henc (runL .henc 0x1000#32 9#32 0x1008#32 1#32).latch ≠ none ∧
      ∃ t, exec .henc stalled9 = .next t ∧ t.running ≠ none :=
  ⟨by decide, _, exec_running .henc (r := demoRun .henc 4 64) rfl, by decide +kernel⟩

/-- A command whose source was written while it ran, one with a stale source, one with a device as source; a store at each
end of each region, and beside it; a completed command that software has not seen; a store when nothing is awaited. -/
theorem witness_DisturbedCommandStillCompletes :
    let r : Running := { demoRun .henc 4 64 with hazard := true }
    let q : Running := { demoRun .henc 4 64 with stale := true }
    let s : State := { henc9 with platform := bus .read 0x1003 .sideEffect }
    let v : Running := ⟨demoLatch 15#4 4 64, true, false, false⟩
    let t := (stateOf abcc r).completeErr .length
    (stateOf abcc r).running = some r ∧ (stateOf abcc r).unstable r = true ∧
      (stateOf abcc r).platform.answers .read r.latch.src .never = false ∧
      (stateOf abcc r).platform.answers .write r.latch.dst .never = false ∧
      (stateOf abcc q).running = some q ∧ (stateOf abcc q).unstable q = true ∧
      s.running = some (demoRun .henc 4 64) ∧ s.unstable (demoRun .henc 4 64) = true ∧
      (stateOf abcc v).running = some v ∧ v.hazard = true ∧ 7#4 ≤ v.latch.op ∧
      r.latch.sa.toNat ≤ 0x1000 ∧ 0x1003 < r.latch.sa.toNat + r.latch.sl.toNat ∧
      r.latch.da.toNat ≤ 0x2000 ∧ 0x203F < r.latch.da.toNat + r.latch.dc.toNat ∧
      (∀ a ∈ [0xFFF, 0x1004, 0x1FFF, 0x2040],
        ¬ (r.latch.sa.toNat ≤ a ∧ a < r.latch.sa.toNat + r.latch.sl.toNat) ∧
        ¬ (r.latch.da.toNat ≤ a ∧ a < r.latch.da.toNat + r.latch.dc.toNat)) ∧
      t.running = none ∧ t.unseen = some r.latch ∧ t.errCode ≠ .unsupportedAlphabet ∧
      State.reset.running = none ∧ State.reset.unseen = none := by decide +kernel

/-- A byte just before the window of a running command; a platform that is not coherent, before a maintenance and with a
byte beside those not visible; the last byte of a result. -/
theorem witness_HostLoadReturnsMemory :
    let s : State := { henc9 with inputs := [.memRead 0x1FFF#32] }
    let n : State := { henc9 with platform := ⟨0#32, false, []⟩, dmaDirty := [⟨0x2000, 19⟩], inputs := [.maintain] }
    s.inputs = .memRead 0x1FFF#32 :: [] ∧ s.platform.coherentDma = true ∧
      s.platform.answers .read ⟨(0x1FFF#32).toNat, 1⟩ .sideEffect = false ∧ s.running = some (demoRun .henc 4 64) ∧
      (0x1FFF#32).toNat < (demoRun .henc 4 64).latch.da.toNat ∧
      n.platform.coherentDma = false ∧ n.inputs = .maintain :: [] ∧ n.stale n.dmaDirty ⟨0x2012, 1⟩ = true ∧
      (∀ q ∈ n.dmaDirty, ¬ (q.base ≤ 0x2013 ∧ 0x2013 < q.base + q.size)) ∧
      18 < hencAbcc.length ∧ (0x2012#32).toNat = (demoRun .henc 4 64).latch.da.toNat + 18 ∧
      n.platform.answers .read ⟨(0x2012#32).toNat, 1⟩ .sideEffect = false := by decide +kernel

/-- Two states that agree only on latches, platform and source. -/
theorem witness_OutcomeDependsOnlyOnTheSource :
    let t : State := { henc9 with irqEn := true, dstLen := 7#32, freeCtr := 5, mem := Memory.write henc9.mem 0x2005 9#8 }
    let r := demoRun .henc 4 64
    henc9.Undisturbed r ∧ t.Undisturbed r ∧ henc9.platform = t.platform ∧ henc9.source r.latch = t.source r.latch ∧
      (henc9.frame .henc r bodyHenc).running = none ∧ (t.frame .henc r bodyHenc).running = none ∧
      (henc9.frame .henc r bodyHenc).errCode = .noError := by decide +kernel

/-! ### Codec -/

theorem witness_HeaderParsesBack :
    FreqModel.wf modelAbc = true ∧ FreqModel.wf [] = true ∧ FreqModel.wf [(0xFF#8, 0x3FFFFFFF)] = true ∧
      (7 ≤ 7 ∧ ([0x80#8] = ([] : List Byte) → 7 = 0)) ∧ (0 ≤ 7 ∧ (([] : List Byte) = [] → 0 = 0)) := by decide +kernel

theorem witness_ParsedHeaderIsWellFormed :
    parseHeader hencAbcc false = .ok ⟨modelAbc, 4, [0xB0#8], 6⟩ ∧
      parseHeader aencAbcc true = .ok ⟨modelAbc, 4, [0x1D#8], 8⟩ := by decide +kernel

theorem witness_BitStreamRoundTrip : 0 < [true].length ∧ 8 < [true, true, true, true, true, true, true, true, true].length := by
  decide

theorem witness_PaddingMarker :
    (BitWriter.mk [true, false, true, true, false]).flush.1.getLast? = some 0xB0#8 ∧
      2 < (BitWriter.mk [true, false, true, true, false]).flush.2 := by decide +kernel

theorem witness_HuffmanTreeShape :
    FreqModel.wf modelAbc = true ∧ modelAbc ≠ [] ∧ FreqModel.wf [(0x43#8, 4)] = true := by decide +kernel

theorem witness_BlockFieldsAreBigEndian :
    FreqModel.wf modelAbc = true ∧ 0 < modelAbc.length ∧ 2 < modelAbc.length ∧ abcc.length ≤ 0x3FFFFFFF ∧
      bodyAenc abcc 0 = .ok ⟨aencAbcc, abcc.length, aencWork⟩ := by decide +kernel

theorem witness_SmallestNodeIsRemovedFirst :
    0 < modelAbc.length ∧ (HuffTree.leaf 0x41#8 8 0) ∈ (popMin (.leaf 0x41#8 8 0) [.leaf 0x42#8 1 1]).2 := by
  decide +kernel

theorem witness_CodeTableIsPrefixFreeAndFull :
    FreqModel.wf modelAbc = true ∧ modelAbc ≠ [] ∧ 2 ≤ modelAbc.length ∧
      (0x41#8, [true, false]) ∈ codesOfModel modelAbc ∧ (0x43#8, [false]) ∈ codesOfModel modelAbc ∧
      (buildTree modelAbc).bind (fun t => t.follow [true, false]) = some (.leaf 0x41#8 1 0) ∧
      FreqModel.wf [(0x43#8, 4)] = true ∧ [((0x43#8 : Byte), 4)].length = 1 := by decide +kernel

theorem witness_HuffmanPayloadLength :
    abcc.length ≤ 0x3FFFFFFF ∧ abcc ≠ [] ∧ (∀ p ∈ codesOfModel (buildModel abcc), p.2.length < 8) := by decide +kernel

theorem witness_HuffmanRoundTrip : abcc.length ≤ 0x3FFFFFFF ∧ abcc.length ≤ 4 := by decide

/-- An interval of width 1, the whole interval, one the middle arm takes, and a symbol of a partition. -/
theorem witness_IntervalNeverCollapses :
    (0x80000000 ≤ 0x80000000 ∧ 0x80000000 < 2 ^ 32) ∧ (0 ≤ 2 ^ 32 - 1 ∧ 2 ^ 32 - 1 < 2 ^ 32) ∧
      (2 ^ 30 ≤ 3 * 2 ^ 30 - 1 ∧ 3 * 2 ^ 30 - 1 < 2 ^ 32) ∧
      FreqModel.wf modelAbc = true ∧ ⟨0x43#8, 2, 4⟩ ∈ partition modelAbc ∧ Coder.start.low ≤ Coder.start.high ∧
      Coder.start.high < 2 ^ 32 ∧ 2 ^ 30 < Coder.start.high - Coder.start.low + 1 := by decide +kernel

/-- The payload of the AENC block of "ABCC": initialisation, and a first symbol. -/
theorem witness_DecoderSearchNeverFails :
    decodeInit 32 Coder.start (BitReader.start [0x1D#8] 8) = .ok (⟨0, full, 0x1D000000, 0⟩, ⟨[0x1D#8], 8, 32⟩) ∧
      partition modelAbc = ⟨0x41#8, 0, 1⟩ :: [⟨0x42#8, 1, 2⟩, ⟨0x43#8, 2, 4⟩] ∧ FreqModel.wf modelAbc = true ∧
      0 ≤ 0x1D000000 ∧ 0x1D000000 ≤ full ∧ full < 2 ^ 32 ∧ 2 ^ 30 < full - 0 + 1 ∧
      decodeRenorm 32 ⟨0, 0x3FFFFFFF, 0x1D000000, 0⟩ ⟨[0x1D#8], 8, 32⟩ =
        .ok (⟨0, full, 0x74000000, 0⟩, ⟨[0x1D#8], 8, 34⟩) := by decide +kernel

theorem witness_DecoderMirrorsEncoder :
    decodeRenorm 32 ⟨0, 0x3FFFFFFF, 0x1D000000, 0⟩ ⟨[0x1D#8], 8, 32⟩ =
      .ok (⟨0, full, 0x74000000, 0⟩, ⟨[0x1D#8], 8, 34⟩) := by decide +kernel

theorem witness_EncoderBitBudget : abcc.length ≤ 0x3FFFFFFF ∧ 2 ≤ (buildModel abcc).length := by decide +kernel

theorem witness_ArithmeticRoundTrip : abcc.length ≤ 0x3FFFFFFF ∧ abcc.length ≤ 4 := by decide

/-! ### The commands complete: a window of exactly the result's length -/

theorem witness_FreqWritesTheModel :
    (demo .freq abcc 17).Admits .freq (demoRun .freq 4 17) ∧
      (demo .freq abcc 17).Takes (demoRun .freq 4 17)
        (2 + 5 * (buildModel ((demo .freq abcc 17).source (demoRun .freq 4 17).latch)).length) := by decide +kernel

theorem witness_HencWritesTheBlock :
    (demo .henc abcc 19).Admits .henc (demoRun .henc 4 19) ∧
      (demo .henc abcc 19).source (demoRun .henc 4 19).latch = abcc ∧
      (demo .henc abcc 19).Takes (demoRun .henc 4 19)
        (3 + 5 * (buildModel abcc).length +
          ((abcc.flatMap (codeOf (codesOfModel (buildModel abcc)))).length + 7) / 8) := by decide +kernel

theorem witness_HcodesWritesTheTable :
    (demo .hcodes abcc 11).Admits .hcodes (demoRun .hcodes 4 11) ∧
      (demo .hcodes abcc 11).source (demoRun .hcodes 4 11).latch = abcc ∧
      (demo .hcodes abcc 11).Takes (demoRun .hcodes 4 11)
        (2 + ((buildModel abcc).map
          (fun p => 2 + ((codeOf (codesOfModel (buildModel abcc)) p.1).length + 7) / 8)).sum) := by decide +kernel

theorem witness_AencWritesTheBlock :
    (demo .aenc abcc 23).Admits .aenc (demoRun .aenc 4 23) ∧
      (demo .aenc abcc 23).source (demoRun .aenc 4 23).latch = abcc ∧
      (demo .aenc abcc 23).Takes (demoRun .aenc 4 23)
        (7 + 5 * (buildModel abcc).length + ((arithmeticWriter (buildModel abcc) abcc).bits.length + 7) / 8) := by
  decide +kernel

theorem witness_HdecRestoresTheInput :
    let s := demo .hdec (hencAbcc ++ [0xFF#8]) 4
    let r := demoRun .hdec 20 4
    s.Admits .hdec r ∧ abcc.length ≤ 0x3FFFFFFF ∧ bodyHenc abcc 0 = .ok ⟨hencAbcc, abcc.length, codeWork modelAbc hencWriter⟩ ∧
      s.source r.latch = hencAbcc ++ [0xFF#8] ∧ s.Takes r abcc.length := by decide +kernel

theorem witness_HdecCompletesOnAnyPayload :
    let src := ascii [0, 2, 0x41, 0, 0, 0, 1, 0x42, 0, 0, 0, 1, 4, 0xC0]
    let s := demo .hdec src 2
    let r := demoRun .hdec 14 2
    s.Admits .hdec r ∧ parseHeader (s.source r.latch) false = .ok ⟨[(0x41#8, 1), (0x42#8, 1)], 2, [0xC0#8], 4⟩ ∧
      2 * 2 ≤ 4 ∧ s.Takes r 2 := by decide +kernel

/-- The block of "AB" with the bits 11, which are the codewords of "BB" (spec/95 section 2.4); a single symbol with bits 1111. -/
theorem witness_HdecCompletesOnAnyPayload_list :
    let s := demo .hdec (ascii [0, 2, 0x41, 0, 0, 0, 1, 0x42, 0, 0, 0, 1, 6, 0xC0]) 2
    let r := demoRun .hdec 14 2
    let m : FreqModel := [(0x41#8, 1), (0x42#8, 1)]
    let t := demo .hdec (ascii [0, 1, 0x43, 0, 0, 0, 4, 4, 0xF0]) 4
    s.Admits .hdec r ∧ parseHeader (s.source r.latch) false = .ok ⟨m, 2, [0xC0#8], 2⟩ ∧ s.Takes r 2 ∧
      ([0x42#8, 0x42#8].flatMap (codeOf (codesOfModel m))) = [true, true] ∧
      streamBit [0xC0#8] 0 = true ∧ streamBit [0xC0#8] 1 = true ∧
      t.Admits .hdec (demoRun .hdec 9 4) ∧ t.Takes (demoRun .hdec 9 4) 4 ∧
      parseHeader (t.source (demoRun .hdec 9 4).latch) false = .ok ⟨[(0x43#8, 4)], 4, [0xF0#8], 4⟩ ∧
      (cccc.flatMap (codeOf (codesOfModel [(0x43#8, 4)]))).length = 4 := by decide +kernel

/-- The block of "AB" with the one bit 1: it stops inside the codewords of "BB", and of "BA"; a single symbol with three
bits of four. -/
theorem witness_HdecTruncatedPayload_list :
    let s := demo .hdec (ascii [0, 2, 0x41, 0, 0, 0, 1, 0x42, 0, 0, 0, 1, 7, 0x80]) 2
    let r := demoRun .hdec 14 2
    let m : FreqModel := [(0x41#8, 1), (0x42#8, 1)]
    let t := demo .hdec (ascii [0, 1, 0x43, 0, 0, 0, 4, 5, 0xE0]) 4
    s.Admits .hdec r ∧ parseHeader (s.source r.latch) false = .ok ⟨m, 2, [0x80#8], 1⟩ ∧ 2 ≤ r.latch.dc.toNat ∧
      ([0x42#8, 0x42#8].flatMap (codeOf (codesOfModel m))) = [true, true] ∧ streamBit [0x80#8] 0 = true ∧
      t.Admits .hdec (demoRun .hdec 9 4) ∧
      parseHeader (t.source (demoRun .hdec 9 4).latch) false = .ok ⟨[(0x43#8, 4)], 4, [0xE0#8], 3⟩ ∧
      3 < (cccc.flatMap (codeOf (codesOfModel [(0x43#8, 4)]))).length := by decide +kernel

/-- One bit is missing of the six that "ABCC" has. -/
theorem witness_HdecTruncatedPayload :
    let src := ascii [0x00, 0x03, 0x41, 0, 0, 0, 1, 0x42, 0, 0, 0, 1, 0x43, 0, 0, 0, 2, 0x03, 0xB0]
    let s := demo .hdec src 4
    let r := demoRun .hdec 19 4
    let bits := abcc.flatMap (codeOf (codesOfModel (buildModel abcc)))
    s.Admits .hdec r ∧ abcc.length ≤ 0x3FFFFFFF ∧ 5 < bits.length ∧ abcc.length ≤ r.latch.dc.toNat ∧
      s.source r.latch =
        serializeModel (buildModel abcc) ++ (BitVec.ofNat 8 ((8 - 5 % 8) % 8) :: packBits (bits.take 5)) := by
  decide +kernel

theorem witness_AdecRestoresTheInput :
    let s := demo .adec (aencAbcc ++ [0xFF#8]) 4
    let r := demoRun .adec 24 4
    s.Admits .adec r ∧ abcc.length ≤ 0x3FFFFFFF ∧ bodyAenc abcc 0 = .ok ⟨aencAbcc, abcc.length, aencWork⟩ ∧
      s.source r.latch = aencAbcc ++ [0xFF#8] ∧ s.Takes r abcc.length := by decide +kernel

theorem witness_AdecCompletesOnAnyPayload :
    let src := ascii [0, 2, 0x41, 0, 0, 0, 1, 0x42, 0, 0, 0, 1, 0, 0, 0, 2, 0, 1, 2, 3, 4, 5, 6, 7, 8, 9, 10, 11, 12]
    let s := demo .adec src 2
    let r := demoRun .adec 29 2
    s.Admits .adec r ∧
      parseHeader (s.source r.latch) true =
        .ok ⟨[(0x41#8, 1), (0x42#8, 1)], 2, ascii [1, 2, 3, 4, 5, 6, 7, 8, 9, 10, 11, 12], 96⟩ ∧
      32 + 32 * 2 ≤ 96 ∧ s.Takes r 2 := by decide +kernel

/-- The three cases of the bit source at their ends; an AENC block of "AB" without its payload, whose initialisation is
truncated. -/
theorem witness_AdecTruncatedPayload :
    let src := ascii [0, 2, 0x41, 0, 0, 0, 1, 0x42, 0, 0, 0, 1, 0, 0, 0, 2, 0]
    let s := demo .adec src 2
    let r := demoRun .adec 17 2
    4 < 5 ∧ (5 ≤ 5 ∧ 5 < 5 + 30) ∧ (5 ≤ 34 ∧ 34 < 5 + 30) ∧ 5 + 30 ≤ 35 ∧
      arithmeticSymbols 2 ⟨0x41#8, 0, 1⟩ [⟨0x42#8, 1, 2⟩] 1 ⟨0, full, 0x50000000, 0⟩ ⟨[0x50#8], 4, 32⟩ =
        .ok ([0x41#8], ⟨0, full, 0xA0000000, 0⟩, ⟨[0x50#8], 4, 33⟩) ∧
      s.Admits .adec r ∧
      parseHeader (s.source r.latch) true = .ok ⟨[(0x41#8, 1), (0x42#8, 1)], 2, [], 0⟩ ∧
      2 ≤ r.latch.dc.toNat := by decide +kernel

/-- The payload with zeros after it, for the block of "ABCC": it is its own, as its last byte has no padding. -/
theorem witness_AdecTruncatedPayload_zeros :
    (∀ k, streamBit [0x1D#8] k = (decide (k < 8) && streamBit [0x1D#8] k)) ∧
      partition modelAbc = ⟨0x41#8, 0, 1⟩ :: [⟨0x42#8, 1, 2⟩, ⟨0x43#8, 2, 4⟩] ∧ 8 ≤ 160 ∧ 32 + 32 * 4 ≤ 160 := by
  refine ⟨fun k => ?_, by decide +kernel, by decide, by decide⟩
  by_cases h : k < 8
  · simp [h]
  · simp [streamBit, h]

/-- With its whole payload the block of "ABCC" is read to index 38 at most; with three bits of it, past index 33. -/
theorem witness_AdecTruncatedPayload_ends :
    let lastIndex := fun (q : List Byte) =>
      match decodeInit 32 Coder.start ⟨q, 160, 0⟩ with
      | .error _ => 0
      | .ok (c, r) =>
        match arithmeticSymbols 4 ⟨0x41#8, 0, 1⟩ [⟨0x42#8, 1, 2⟩, ⟨0x43#8, 2, 4⟩] 4 c r with
        | .error _ => 0
        | .ok (_, _, r') => r'.pos
    lastIndex [0x1D#8] ≤ 8 + 30 ∧ 3 + 30 < lastIndex [0x00#8] := by decide +kernel

theorem witness_EmptyInputIsASuccess :
    (demo .freq [] 2).Admits .freq (demoRun .freq 0 2) ∧ (demo .freq [] 2).Takes (demoRun .freq 0 2) 2 ∧
      (demo .henc [] 3).Admits .henc (demoRun .henc 0 3) ∧ (demo .henc [] 3).Takes (demoRun .henc 0 3) 3 ∧
      (demo .hcodes [] 2).Admits .hcodes (demoRun .hcodes 0 2) ∧ (demo .hcodes [] 2).Takes (demoRun .hcodes 0 2) 2 ∧
      (demo .aenc [] 7).Admits .aenc (demoRun .aenc 0 7) ∧ (demo .aenc [] 7).Takes (demoRun .aenc 0 7) 7 ∧
      (demo .hdec (List.replicate 3 0#8) 0).Admits .hdec (demoRun .hdec 3 0) ∧
      (demo .hdec (List.replicate 3 0#8) 0).source (demoRun .hdec 3 0).latch = List.replicate 3 0#8 ∧
      (demo .hdec (List.replicate 3 0#8) 0).Takes (demoRun .hdec 3 0) 0 ∧
      (demo .adec (List.replicate 7 0#8) 0).Admits .adec (demoRun .adec 7 0) ∧
      (demo .adec (List.replicate 7 0#8) 0).source (demoRun .adec 7 0).latch = List.replicate 7 0#8 ∧
      (demo .adec (List.replicate 7 0#8) 0).Takes (demoRun .adec 7 0) 0 := by decide +kernel

end Sys2Proof.Tests
end

section
/-! # Proofs about the register port, the start of a command and the turn of a step -/

namespace Sys2Proof.Machine

/-! ## Turns (log 2) -/

/-- The core moves exactly when a command runs that is not stalled and the host does not have the turn. -/
theorem coreMoves_iff (s : State) :
    s.coreMoves = true ↔
      ∃ r, s.running = some r ∧ r.stalled = false ∧ (s.inputs = [] ∨ s.schedule.head? ≠ some .host) := by
  cases h : s.running <;> simp [State.coreMoves, h]

@[simp] theorem takeTurn_inputs (s : State) : s.takeTurn.inputs = s.inputs := by
  unfold State.takeTurn; split <;> rfl

@[simp] theorem takeTurn_done (s : State) : s.takeTurn.done = s.done := by
  unfold State.takeTurn; split <;> rfl

@[simp] theorem takeTurn_irq (s : State) : s.takeTurn.irq = s.irq := by
  unfold State.takeTurn; split <;> rfl

/-- On the core's turn a step is the core's, with one turn of the schedule used up. -/
theorem step_of_coreMoves {s : State} {r : Running} (hr : s.running = some r) (hm : s.coreMoves = true) :
    step s = coreStep { s with schedule := s.schedule.tail } := by
  rw [step, if_pos hm, takeTurn_busy hr]

/-- On the host's turn a step is the host's next action. -/
theorem step_of_hostMoves {s : State} (hm : s.coreMoves = false) : step s = .next s.takeTurn.hostTurn := by
  simp [step, hm]

/-- The core runs the command of the latched opcode. -/
theorem coreStep_ok {s : State} {r : Running} {i : Instr} (hr : s.running = some r)
    (hd : decodeOp r.latch.op = .ok i) : coreStep s = exec i s := by
  simp [coreStep, hr, hd]

/-- The core rejects a reserved latched opcode. -/
theorem coreStep_error {s : State} {r : Running} {e : DecodeReject} (hr : s.running = some r)
    (hd : decodeOp r.latch.op = .error e) : coreStep s = .next (s.rejectReserved r) := by
  simp [coreStep, hr, hd]

/-! ## The host's turn, action by action (R83, R225) -/

section
variable {s : State} {es : List HostEvent}

theorem hostTurn_nil (h : s.inputs = []) : s.hostTurn = s := by simp [State.hostTurn, h]

theorem hostTurn_regWrite {a : PortAccess} {v : Word} (h : s.inputs = .regWrite a v :: es) :
    s.hostTurn = ({ s with inputs := es } : State).portWrite a v := by simp [State.hostTurn, h]

theorem hostTurn_regRead {a : PortAccess} (h : s.inputs = .regRead a :: es) :
    s.hostTurn = ({ s with inputs := es } : State).portRead a := by simp [State.hostTurn, h]

theorem hostTurn_memWrite {a : Word} {b : Byte} (h : s.inputs = .memWrite a b :: es) :
    s.hostTurn = ({ s with inputs := es } : State).hostStore a.toNat b := by simp [State.hostTurn, h]

theorem hostTurn_memRead {a : Word} (h : s.inputs = .memRead a :: es) :
    s.hostTurn = ({ s with inputs := es } : State).hostLoad a.toNat := by simp [State.hostTurn, h]

theorem hostTurn_wait_done (h : s.inputs = .wait :: es) (hd : s.done = true) :
    s.hostTurn = ({ s with inputs := es } : State).readCsr .status := by simp [State.hostTurn, h, hd]

theorem hostTurn_wait_again (h : s.inputs = .wait :: es) (hd : s.done = false) :
    s.hostTurn = s.readCsr .status := by simp [State.hostTurn, h, hd]

theorem hostTurn_takeIrq (h : s.inputs = .takeIrq :: es) (hq : s.irq = true) :
    s.hostTurn = ({ s with inputs := es } : State).takeIrq := by simp [State.hostTurn, h, hq]

theorem hostTurn_takeIrq_again (h : s.inputs = .takeIrq :: es) (hq : s.irq = false) : s.hostTurn = s := by
  simp [State.hostTurn, h, hq]

theorem hostTurn_maintain (h : s.inputs = .maintain :: es) :
    s.hostTurn = ({ s with inputs := es } : State).maintain := by simp [State.hostTurn, h]

theorem hostTurn_resetPin (h : s.inputs = .resetPin :: es) :
    s.hostTurn = ({ s with inputs := es } : State).resetCore := by simp [State.hostTurn, h]

end

/-- Settles O3: the core's turn from `coreStep`, the host's from the equation of its next action. -/
theorem stepRunsTheLatchedCommand : Obligations.StepRunsTheLatchedCommand := by
  refine ⟨fun s => ⟨coreMoves_iff s, takeTurn_idle, fun h => ?_⟩, fun s r hr hm => ?_, fun s hm => ?_⟩
  · obtain ⟨r, hr⟩ := Option.ne_none_iff_exists'.mp h
    exact takeTurn_busy hr
  · rw [step_of_coreMoves hr hm]
    exact ⟨fun i => coreStep_ok hr, fun e => coreStep_error hr⟩
  · rw [step_of_hostMoves hm]
    have hi := takeTurn_inputs s
    have hd := takeTurn_done s
    have hq := takeTurn_irq s
    refine ⟨fun h => ?_, fun es => ⟨fun a v h => ?_, fun a h => ?_, fun a b h => ?_, fun a h => ?_, fun h d => ?_,
      fun h d => ?_, fun h q => ?_, fun h q => ?_, fun h => ?_, fun h => ?_⟩⟩
    · rw [hostTurn_nil (hi.trans h)]
    · rw [hostTurn_regWrite (hi.trans h)]
    · rw [hostTurn_regRead (hi.trans h)]
    · rw [hostTurn_memWrite (hi.trans h)]
    · rw [hostTurn_memRead (hi.trans h)]
    · rw [hostTurn_wait_done (hi.trans h) (hd.trans d)]
    · rw [hostTurn_wait_again (hi.trans h) (hd.trans d)]
    · rw [hostTurn_takeIrq (hi.trans h) (hq.trans q)]; rfl
    · rw [hostTurn_takeIrq_again (hi.trans h) (hq.trans q)]
    · rw [hostTurn_maintain (hi.trans h)]; rfl
    · rw [hostTurn_resetPin (hi.trans h)]

/-! ## `withFetchWord` (log 4) -/

/-- The command of a table word is the one its opcode field decodes to. -/
theorem decodeOp_of_decodeTableWord {nbits w : Nat} {i : Instr} (h : decodeTableWord nbits w = some i) :
    decodeOp (opField (BitVec.ofNat 32 (w % 2 ^ nbits))) = .ok i := by
  rw [← decode_eq_decodeOp]
  unfold decodeTableWord at h
  split at h
  · cases h; assumption
  · cases h

/-- Settles O4: the START of `withFetchWord` latches the word's opcode and leaves the turn with the core. -/
theorem fetchedWordRunsNext : Obligations.FetchedWordRunsNext := by
  intro s nbits w i h
  have hm : (s.withFetchWord nbits w).coreMoves = true :=
    (coreMoves_iff _).mpr ⟨_, rfl, rfl, .inr (by simp [State.withFetchWord])⟩
  rw [step_of_coreMoves rfl hm]
  exact coreStep_ok rfl (decodeOp_of_decodeTableWord h)

/-! ## Register writes, case by case (R25 to R36) -/

section
variable {s : State} {v : Word}

/-- SRST wins over the other bits of a CTRL write (R25). -/
theorem writeCsr_ctrl_reset (h1 : v.getLsbD 1 = true) : s.writeCsr .ctrl v = s.resetCore := by
  simp [State.writeCsr, State.writeCtrl, h1]

/-- A CTRL write that is no reset and no accepted START sets IRQ_EN only (R25, R36). -/
theorem writeCsr_ctrl_irqEn (h1 : v.getLsbD 1 = false) (h : v.getLsbD 0 = false ∨ s.busy = true) :
    s.writeCsr .ctrl v = { s with irqEn := v.getLsbD 2 } := by
  have hstart : (v.getLsbD 0 && !s.busy) = false := by
    rcases h with h | h
    · rw [h, Bool.false_and]
    · rw [h, Bool.not_true, Bool.and_false]
  simp only [State.writeCsr, State.writeCtrl, h1, hstart, Bool.false_eq_true, if_false]

/-- START is accepted while no command runs (R25, R41). -/
theorem writeCsr_ctrl_start (h1 : v.getLsbD 1 = false) (h0 : v.getLsbD 0 = true) (hb : s.busy = false) :
    s.writeCsr .ctrl v = ({ s with irqEn := v.getLsbD 2 } : State).acceptStart := by
  have hstart : (v.getLsbD 0 && !s.busy) = true := by rw [h0, hb]; rfl
  simp only [State.writeCsr, State.writeCtrl, h1, hstart, Bool.false_eq_true, if_false, if_true]

/-- An acknowledgement has no effect while DONE is 0 (R36). -/
theorem writeCsr_status_notDone (hd : s.done = false) : s.writeCsr .status v = s := by
  have hack : s.acknowledge = s := by rw [State.acknowledge, ← hd]
  simp only [State.writeCsr, State.writeStatus, hack, ite_self]

end

/-- A running command with nothing else in STATUS reads as 0x0000_0001 (R41). -/
theorem statusWord_busyAlone {s : State} (hb : s.busy = true) (hd : s.done = false) (he : s.empty = false)
    (hc : s.errCode = .noError) : s.statusWord = 0x00000001#32 := by
  simp [State.statusWord, State.err, hb, hd, he, hc, flagAt, ErrCode.toBits]

/-- Settles O7: the write is an accepted START, after which BUSY stands alone in STATUS. -/
theorem acceptedStartLatchesOperands : Obligations.AcceptedStartLatchesOperands := by
  intro s v hr h1 h0
  rw [writeCsr_ctrl_start h1 h0 (by simp [State.busy, hr])]
  exact ⟨rfl, statusWord_busyAlone rfl rfl rfl rfl⟩

/-- CMD reads back the low four bits of what was written (R26). -/
theorem cmdWord_opField (s : State) (v : Word) :
    ({ s with cmdOp := opField v } : State).cmdWord = v &&& 0x0000000F#32 :=
  (and_low_nibble v).symm

/-- Settles O8: the writes by BUSY, and the CTRL write by SRST and START. -/
theorem operandWritesFollowBusy : Obligations.OperandWritesFollowBusy := by
  refine ⟨fun s v hb => ?_, fun s v hb => ?_⟩
  · refine ⟨?_, ?_, ?_, ?_, ?_, fun h1 => writeCsr_ctrl_irqEn h1 (.inr hb), writeCsr_ctrl_reset,
      writeCsr_status_notDone⟩
    all_goals simp [State.writeCsr, hb]
  · have hcmd : s.writeCsr .cmd v = { s with cmdOp := opField v } := by simp [State.writeCsr, hb]
    refine ⟨?_, ?_, ?_, ?_, hcmd, hcmd ▸ cmdWord_opField s v, fun h1 h0 => ?_⟩
    · simp [State.writeCsr, hb]
    · simp [State.writeCsr, hb]
    · simp [State.writeCsr, hb]
    · simp [State.writeCsr, hb]
    · rw [writeCsr_ctrl_irqEn h1 (.inl h0)]
      exact ⟨rfl, rfl, rfl⟩

/-! ## The register map and STATUS (R22 to R35, R201) -/

/-- The slots above MAX_LEN are reserved (R35). -/
theorem csrAt_reserved {k : Nat} (h : 12 ≤ k) : csrAt (4 * k) = .reserved := by
  obtain ⟨j, rfl⟩ := Nat.exists_eq_add_of_le' h
  rw [csrAt, Nat.mul_div_cancel_left _ (by decide)]
  rfl

/-- DST_LEN and SYM_COUNT read as stored while BUSY = 0 (R32, R33). -/
theorem csrValue_results {s : State} (hb : s.busy = false) :
    s.csrValue .dstLen = s.dstLen ∧ s.csrValue .symCount = s.symCount := by
  simp [State.csrValue, hb]

/-- Settles O10. -/
theorem registerMap : Obligations.RegisterMap :=
  ⟨fun _ => csrAt_reserved, by decide, fun _ _ => ⟨rfl, rfl, rfl, rfl, rfl, rfl, rfl, rfl, rfl, rfl⟩,
    fun _ => ⟨rfl, rfl, rfl, rfl, rfl, rfl, rfl, csrValue_results⟩⟩

/-- The fields of a STATUS word put together from its flags and its code (R31). -/
theorem statusWord_fields (s : State) :
    s.statusWord.getLsbD 0 = s.busy ∧ s.statusWord.getLsbD 1 = s.done ∧ s.statusWord.getLsbD 2 = s.err ∧
    s.statusWord.getLsbD 3 = s.empty ∧ s.statusWord.extractLsb' 4 4 = 0#4 ∧
    s.statusWord.extractLsb' 8 4 = s.errCode.toBits ∧ s.statusWord.extractLsb' 12 20 = 0#20 := by
  unfold State.statusWord
  generalize s.busy = busy, s.done = done, s.err = err, s.empty = empty, s.errCode.toBits = code
  revert busy done err empty code
  decide

/-- ERR is 1 exactly when ERRCODE is not 0 (R31). -/
theorem err_eq_decide (s : State) : s.err = decide (s.errCode.toBits ≠ 0#4) := by
  unfold State.err
  cases s.errCode <;> rfl

/-- Settles O11. -/
theorem statusFields : Obligations.StatusFields := by
  refine ⟨fun s => ?_, rfl, rfl, rfl, rfl, rfl, rfl, rfl, rfl⟩
  obtain ⟨hbusy, hdone, herr, hempty, hlow, hcode, hhigh⟩ := statusWord_fields s
  exact ⟨hbusy, hdone, by rw [herr, hcode, err_eq_decide], hempty, hlow, hcode, hhigh⟩

/-- Settles O14: every field a reset leaves is one of `clearCore`'s constants, whatever the abandoned command was. -/
theorem resetRegisterValues : Obligations.ResetRegisterValues := by
  intro s c
  have hvalue : s.resetCore.csrValue c = State.reset.csrValue c := by cases c <;> rfl
  refine ⟨?_, rfl, rfl, hvalue.symm, rfl, rfl, rfl, rfl, rfl, rfl, rfl⟩
  rw [hvalue]
  cases c <;> rfl

end Sys2Proof.Machine
end

section
/-! # What a command can leave, and the invariant -/

namespace Sys2Proof.Machine

/-! ## How a running command's turn can end -/

/-- Everything the core's turn can make of `s` while `r` runs; `returns` says what a result that is stored can be. -/
inductive CommandEnd (s : State) (r : Running) (returns : BodyOut → Prop) : State → Prop where
  | stalled (n : Nat) : CommandEnd s r returns ((s.bump n).stall r)
  | refused (code : ErrCode) (hcode : code ≠ .unsupportedAlphabet) : CommandEnd s r returns (s.completeErr code)
  | failed (n : Nat) (code : ErrCode) (hcode : code ≠ .unsupportedAlphabet) :
      CommandEnd s r returns ((s.bump n).endWithError r code)
  | unspecified : CommandEnd s r returns (s.scrubWindow r.latch).completeUnspecified
  | succeeded (n : Nat) (b : BodyOut) (hb : returns b) (hlen : b.out.length ≤ r.latch.dc.toNat) :
      CommandEnd s r returns ((s.bump n).success r b.out b.syms b.work)

/-- What a command past its first checks can store: its body's result, or a free one that leaves no working state. -/
def Returns (s : State) (i : Instr) (r : Running) (b : BodyOut) : Prop :=
  preCheck i r.latch = none ∧
    (b.work = Work.empty ∨ bodyOf i (s.source r.latch) r.latch.dc.toNat = .ok b)

section
variable {s : State} {r : Running} {returns : BodyOut → Prop}

theorem endBeforeDma_ends {code : ErrCode} (hcode : code ≠ .unsupportedAlphabet) :
    CommandEnd s r returns (s.endBeforeDma r code) := by
  unfold State.endBeforeDma
  split
  · exact .unspecified
  · exact .refused code hcode

theorem endUnspecified_ends : CommandEnd s r returns (s.endUnspecified r) := by
  rcases endUnspecified_cases s r with e | ⟨_, e⟩ <;> rw [e]
  · exact .unspecified
  · exact .stalled 0

/-- The end of a body after `n` free values, when it raises no code 3 and what it returns is as `returns` says. -/
theorem finish_ends (n : Nat) {res : BodyResult} (herr : ∀ code, res = .error code → code ≠ .unsupportedAlphabet)
    (hok : ∀ b, res = .ok b → returns b) : CommandEnd s r returns ((s.bump n).finish r res) := by
  rcases finish_cases (s.bump n) r res with ⟨b, hb, ⟨hlen, _⟩, e⟩ | ⟨code, hcode, e⟩ | ⟨_, e⟩ <;> rw [e]
  · exact .succeeded n b (hok b hb) hlen
  · refine .failed n code ?_
    rcases hcode with hcode | rfl | rfl
    · exact herr code hcode
    · decide
    · decide
  · exact .stalled n

end

/-- No check before DMA reports code 3. -/
theorem preCheck_ne_codeThree {i : Instr} {l : Latch} {code : ErrCode} (h : preCheck i l = some code) :
    code ≠ .unsupportedAlphabet := by
  rcases preCheck_cases i l with e | e | e <;> rw [e] at h <;> cases h <;> decide

/-- No body raises code 3 (R204). -/
theorem bodyOf_ne_codeThree {i : Instr} {src : List Byte} {dc : Nat} {code : ErrCode}
    (h : bodyOf i src dc = .error code) : code ≠ .unsupportedAlphabet := by
  rcases (bodyOf_error h).2 with rfl | rfl | rfl <;> decide

/-- A free result is no code 3 either. -/
theorem bodyErrors_ne_codeThree {i : Instr} {code : ErrCode} (h : code ∈ bodyErrors i) :
    code ≠ .unsupportedAlphabet := by
  rintro rfl
  revert h
  cases i <;> decide

/-- How the frame can end. -/
theorem frame_ends (s : State) (i : Instr) (r : Running) :
    CommandEnd s r (Returns s i r) (s.frame i r (bodyOf i)) := by
  rcases frame_cases s i r (bodyOf i) with ⟨code, hp, e⟩ | ⟨_, _, e⟩ | ⟨_, _, _, e⟩ | ⟨_, _, _, e⟩ | ⟨hp, _, _, _, e⟩ |
    ⟨hp, _, _, e⟩ <;> rw [e]
  · exact endBeforeDma_ends (preCheck_ne_codeThree hp)
  · exact .stalled 0
  · exact endUnspecified_ends
  · exact .failed 0 _ (by decide)
  · rcases freeResult_cases s i r with ⟨code, hmem, e'⟩ | e' <;> rw [e']
    · exact .failed _ _ (bodyErrors_ne_codeThree hmem)
    · exact finish_ends _ nofun (fun b hb => by cases hb; exact ⟨hp, .inl rfl⟩)
  · exact finish_ends 0 (fun _ => bodyOf_ne_codeThree) (fun b hb => ⟨hp, .inr hb⟩)

/-- Everything a step can do: a command's turn ends, or the host acts. -/
theorem step_ends (s : State) :
    (∃ r s', s.running = some r ∧ step s = .next s' ∧
      ((∃ i, CommandEnd { s with schedule := s.schedule.tail } r (Returns s i r) s') ∨
        CommandEnd { s with schedule := s.schedule.tail } r (fun _ => False) s')) ∨
    step s = .next s.takeTurn.hostTurn := by
  rcases step_cases s with ⟨r, i, hr, _, _, e⟩ | ⟨r, _, hr, _, _, e⟩ | ⟨_, e⟩
  · exact .inl ⟨r, _, hr, e, .inl ⟨i, frame_ends _ i r⟩⟩
  · exact .inl ⟨r, _, hr, e, .inr (endBeforeDma_ends (by decide))⟩
  · exact .inr e

/-- How a command ends. -/
theorem exec_ends {i : Instr} {s s' : State} (h : exec i s = .next s') :
    ∃ r, s.running = some r ∧ CommandEnd s r (Returns s i r) s' := by
  obtain ⟨r, hr, rfl⟩ := exec_next h
  exact ⟨r, hr, frame_ends s i r⟩

/-- Settles O28: no way to end touches the registers and the host's side, and a stalled command has no results. -/
theorem commandsKeepTheOtherRegisters : Obligations.CommandsKeepTheOtherRegisters := by
  intro i s s' h
  obtain ⟨r, _, hend⟩ := exec_ends h
  refine ⟨?_, ?_, ?_, ?_, ?_, ?_, ?_, ?_, ?_, ?_, ?_, fun hrun => ?_⟩
  case refine_12 =>
    cases hend with
    | stalled n => exact ⟨rfl, rfl, rfl, rfl, rfl⟩
    | refused | failed | unspecified | succeeded => exact absurd rfl hrun
  all_goals cases hend <;> simp [State.endWithError, State.success]

end Sys2Proof.Machine
end

section
/-! # The invariant of the machine -/

namespace Sys2Proof.Machine

/-! ## Memory stays canonical (log 5) -/

@[simp] theorem length_freeBytes (s : State) (n : Nat) : (s.freeBytes n).length = n := by simp [State.freeBytes]

/-- A window that is cut at the top of the address space ends there. -/
theorem dst_windowSize_le (l : Latch) : l.da.toNat + l.windowSize ≤ Config.addressSpace := by
  have hda : l.da.toNat < Config.addressSpace := l.da.isLt
  have hsize : l.windowSize ≤ Config.addressSpace - l.da.toNat := Nat.min_le_right _ _
  omega

theorem scrubWindow_mem_wf {s : State} (l : Latch) (hm : s.mem.wf = true) : (s.scrubWindow l).mem.wf = true :=
  Memory.wf_writeBytes hm (by rw [length_freeBytes]; exact dst_windowSize_le l)

/-- A result that fits a window inside the address space is stored in canonical form. -/
theorem storeResult_mem_wf {s : State} {i : Instr} {l : Latch} {out : List Byte} (hm : s.mem.wf = true)
    (hp : preCheck i l = none) (hlen : out.length ≤ l.dc.toNat) : (s.storeResult l out).mem.wf = true := by
  have hfits := (fits_iff l.dst).mp (preCheck_fits hp).2
  rw [dst_base, dst_size] at hfits
  exact Memory.wf_writeBytes hm (Nat.le_trans (Nat.add_le_add_left hlen _) hfits)

theorem putByte_mem_wf {s : State} (a : Word) (b : Byte) (hm : s.mem.wf = true) :
    (s.putByte a.toNat b).mem.wf = true :=
  Memory.wf_write hm a.isLt

theorem resetCore_mem_wf {s : State} (hm : s.mem.wf = true) : s.resetCore.mem.wf = true := by
  unfold State.resetCore State.abandon
  split
  · exact hm
  · exact scrubWindow_mem_wf _ hm

/-! ## The invariant by the state of the core -/

/-- While no command runs, the invariant speaks of memory and of the last outcome. -/
theorem inv_of_idle {s : State} (hr : s.running = none) (hm : s.mem.wf = true) (hc : s.errCode ≠ .unsupportedAlphabet)
    (he : s.empty = true → s.errCode = .noError ∧ s.symCount = 0#32) : s.Inv where
  memory := hm
  busyAlone hb := by simp [State.busy, hr] at hb
  noCodeThree := hc
  emptyIsSuccess := he
  workFresh r h := by simp [hr] at h
  nothingUnseen hb := by simp [State.busy, hr] at hb

/-- While a command runs, BUSY stands alone in STATUS and the working state is as START left it. -/
theorem inv_of_busy {s : State} (hm : s.mem.wf = true) (hd : s.done = false) (he : s.empty = false)
    (hc : s.errCode = .noError) (hw : s.work = Work.init) (hu : s.unseen = none) : s.Inv where
  memory := hm
  busyAlone _ := ⟨hd, he, hc⟩
  noCodeThree := by rw [hc]; decide
  emptyIsSuccess h := by rw [he] at h; cases h
  workFresh _ _ := hw
  nothingUnseen _ := hu

/-- A running command of a state that meets the invariant may be marked, and its memory changed in canonical form. -/
theorem inv_running_mem {s t : State} {r : Running} (hi : s.Inv) (hr : s.running = some r) (hm : t.mem.wf = true)
    (hd : t.done = s.done) (he : t.empty = s.empty) (hc : t.errCode = s.errCode) (hw : t.work = s.work)
    (hu : t.unseen = s.unseen) : t.Inv := by
  have hb : s.busy = true := by simp [State.busy, hr]
  obtain ⟨hdone, hempty, hcode⟩ := hi.busyAlone hb
  exact inv_of_busy hm (hd.trans hdone) (he.trans hempty) (hc.trans hcode) (hw.trans (hi.workFresh r hr))
    (hu.trans (hi.nothingUnseen hb))

theorem inv_resetCore {s : State} (hm : s.mem.wf = true) : s.resetCore.Inv :=
  inv_of_idle rfl (resetCore_mem_wf hm) nofun nofun

theorem inv_acceptStart {s : State} (hm : s.mem.wf = true) : s.acceptStart.Inv := inv_of_busy hm rfl rfl rfl rfl rfl

/-- Settles O16: after reset memory lists nothing and no command runs. -/
theorem invAtReset : Obligations.InvAtReset := inv_of_idle rfl rfl nofun nofun

/-! ## Unspecified outcomes (R204, U5) -/

/-- Code 3 is not among the codes of an unspecified outcome. -/
theorem reportableCodes_ne_codeThree (n : Nat) : reportableCodes.getD (n % 8) .noError ≠ .unsupportedAlphabet := by
  have h : ∀ k < 8, reportableCodes.getD k .noError ≠ .unsupportedAlphabet := by decide
  exact h _ (Nat.mod_lt n (by decide))

/-- An unspecified outcome of a state without a command meets the invariant. -/
theorem inv_unspecifiedOutcome {s : State} (hr : s.running = none) (hm : s.mem.wf = true) :
    s.unspecifiedOutcome.Inv :=
  inv_of_idle hr hm (reportableCodes_ne_codeThree _) (by simp)

theorem inv_completeUnspecified {s : State} (hm : s.mem.wf = true) : s.completeUnspecified.Inv :=
  inv_of_idle rfl hm (reportableCodes_ne_codeThree _) (by simp)

/-! ## Completions -/

theorem inv_completeErr {s : State} {code : ErrCode} (hm : s.mem.wf = true) (hc : code ≠ .unsupportedAlphabet) :
    (s.completeErr code).Inv :=
  inv_of_idle rfl hm hc nofun

theorem inv_completeOk {s : State} (len syms : Nat) (hm : s.mem.wf = true) : (s.completeOk len syms).Inv :=
  inv_of_idle rfl hm nofun (fun he => ⟨rfl, by rw [completeOk_empty, decide_eq_true_iff] at he; subst he; rfl⟩)

/-- However a command ends, it keeps the invariant, if it stores no result outside a window that fits. -/
theorem inv_of_commandEnd {s s' : State} {r : Running} {returns : BodyOut → Prop} (hi : s.Inv)
    (hr : s.running = some r) (hfits : ∀ b, returns b → ∃ i, preCheck i r.latch = none)
    (h : CommandEnd s r returns s') : s'.Inv := by
  cases h with
  | stalled n => exact inv_running_mem hi hr hi.memory rfl rfl rfl rfl rfl
  | refused code hcode => exact inv_completeErr hi.memory hcode
  | failed n code hcode => exact inv_completeErr (scrubWindow_mem_wf (s := s.bump n) r.latch hi.memory) hcode
  | unspecified => exact inv_completeUnspecified (scrubWindow_mem_wf r.latch hi.memory)
  | succeeded n b hb hlen =>
    obtain ⟨i, hp⟩ := hfits b hb
    exact inv_completeOk _ _ (storeResult_mem_wf (s := s.bump n) hi.memory hp hlen)

/-! ## The host's actions -/

/-- The invariant speaks of none of the registers the host writes, nor of the platform and the host's side. -/
theorem inv_hostSide {s : State} (hi : s.Inv) (irqEn : Bool) (cmdOp : BitVec 4) (sa sl da dc : Word)
    (platform : Platform) (hostDirty dmaDirty : List Region) (inputs : List HostEvent) (schedule : List Turn)
    (resp : Option Response) (freeCtr : Nat) :
    ({ s with
        irqEn := irqEn, cmdOp := cmdOp, srcAddr := sa, srcLen := sl, dstAddr := da, dstCap := dc
        platform := platform, hostDirty := hostDirty, dmaDirty := dmaDirty
        inputs := inputs, schedule := schedule, resp := resp, freeCtr := freeCtr } : State).Inv :=
  ⟨hi.memory, hi.busyAlone, hi.noCodeThree, hi.emptyIsSuccess, hi.workFresh, hi.nothingUnseen⟩

theorem inv_takeTurn {s : State} (hi : s.Inv) : s.takeTurn.Inv := by
  unfold State.takeTurn
  split
  · exact inv_hostSide hi ..
  · exact hi

theorem inv_takeIrq {s : State} (hi : s.Inv) : s.takeIrq.Inv :=
  ⟨hi.memory, hi.busyAlone, hi.noCodeThree, hi.emptyIsSuccess, hi.workFresh, fun _ => rfl⟩

theorem inv_readCsr {s : State} (c : Csr) (hi : s.Inv) : (s.readCsr c).Inv where
  memory := hi.memory
  busyAlone := hi.busyAlone
  noCodeThree := hi.noCodeThree
  emptyIsSuccess := hi.emptyIsSuccess
  workFresh := hi.workFresh
  nothingUnseen hb := by rw [readCsr_unseen, hi.nothingUnseen hb, ite_self]

theorem inv_acknowledge {s : State} (hi : s.Inv) : s.acknowledge.Inv where
  memory := hi.memory
  busyAlone hb := ⟨rfl, (hi.busyAlone hb).2⟩
  noCodeThree := hi.noCodeThree
  emptyIsSuccess := hi.emptyIsSuccess
  workFresh := hi.workFresh
  nothingUnseen := hi.nothingUnseen

theorem inv_writeCsr {s : State} (c : Csr) (v : Word) (hi : s.Inv) : (s.writeCsr c v).Inv := by
  rcases writeCsr_cases s c v with ⟨_, _, e⟩ | ⟨_, _, e⟩ | ⟨_, _, e⟩ | ⟨_, _, _, _, _, _, e⟩ <;> rw [e]
  · exact inv_resetCore hi.memory
  · exact inv_acceptStart hi.memory
  · exact inv_acknowledge hi
  · exact inv_hostSide hi ..

theorem inv_hostStore {s : State} (a : Word) (b : Byte) (hi : s.Inv) : (s.hostStore a.toNat b).Inv := by
  have hm := putByte_mem_wf a b hi.memory
  rcases hostStore_cases s a.toNat b with ⟨r, hr, e⟩ | ⟨hr, e⟩ | ⟨l, hr, _, _, e⟩ <;> rw [e]
  · exact inv_running_mem hi hr hm rfl rfl rfl rfl rfl
  · exact inv_of_idle hr hm hi.noCodeThree hi.emptyIsSuccess
  · exact inv_unspecifiedOutcome hr (scrubWindow_mem_wf l hm)

theorem inv_hostTurn {s : State} (hi : s.Inv) : s.hostTurn.Inv := by
  have hqueue (es : List HostEvent) : ({ s with inputs := es } : State).Inv := inv_hostSide hi ..
  rcases hostTurn_cases s with e | ⟨es, ⟨c, e⟩ | e | ⟨c, v, e⟩ | ⟨a, b, _, e⟩ | ⟨a, e⟩ | e | e | e⟩ <;> rw [e]
  · exact hi
  · exact inv_readCsr c (hqueue es)
  · exact inv_hostSide hi ..
  · exact inv_hostSide (inv_writeCsr c v (hqueue es)) ..
  · exact inv_hostStore a b (hqueue es)
  · exact inv_hostSide hi ..
  · exact inv_hostSide hi ..
  · exact inv_takeIrq (hqueue es)
  · exact inv_resetCore hi.memory

/-- Settles O17: the core's turn by how its command ends, the host's by its action. -/
theorem everyStepKeepsInv : Obligations.EveryStepKeepsInv := by
  intro s s' hi h
  rcases step_ends s with ⟨r, t, hr, e, hend⟩ | e <;> rw [e] at h <;> cases h
  · have hi' : ({ s with schedule := s.schedule.tail } : State).Inv := takeTurn_busy hr ▸ inv_takeTurn hi
    rcases hend with ⟨i, hend⟩ | hend
    · exact inv_of_commandEnd hi' hr (fun _ hb => ⟨i, hb.1⟩) hend
    · exact inv_of_commandEnd hi' hr nofun hend
  · exact inv_hostTurn (inv_takeTurn hi)

end Sys2Proof.Machine
end

section
/-! # Frequency models: what the FrequencyModel unit builds and the header parser accepts is well formed -/

namespace Sys2Proof.Machine

/-! ## The alphabet (R7, R102) -/

@[simp] theorem length_allSymbols : allSymbols.length = 256 := by simp [allSymbols, Config.alphabet]

theorem mem_allSymbols (b : Byte) : b ∈ allSymbols :=
  List.mem_map.mpr ⟨b.toNat, List.mem_range.mpr b.isLt, by simp⟩

/-- The symbols ascend. -/
theorem allSymbols_pairwise : allSymbols.Pairwise (fun a b => a.toNat < b.toNat) := by
  refine List.pairwise_map.mpr (List.pairwise_lt_range.imp_of_mem fun {a b} ha hb hab => ?_)
  rw [List.mem_range, Config.alphabet] at ha hb
  simpa [Nat.mod_eq_of_lt ha, Nat.mod_eq_of_lt hb] using hab

theorem nodup_allSymbols : allSymbols.Nodup :=
  allSymbols_pairwise.imp fun hab h => by rw [h] at hab; exact Nat.lt_irrefl _ hab

/-! ## The model of an input (R102, R103) -/

/-- A model's records are the symbols that occur, each with its count (R102). -/
theorem buildModel_eq (src : List Byte) :
    buildModel src = (allSymbols.filter fun s => decide (s ∈ src)).map fun s => (s, src.count s) := by
  have hzip : allSymbols.zip (freqTable src) = allSymbols.map fun s => (s, src.count s) := by
    simpa [freqTable] using List.zip_map' (f := id) (g := src.count) (l := allSymbols)
  rw [buildModel, hzip, List.filter_map]
  congr 2
  funext s
  exact decide_eq_decide.mpr List.count_pos_iff

theorem length_buildModel_le (src : List Byte) : (buildModel src).length ≤ 256 := by
  rw [buildModel_eq, List.length_map, ← length_allSymbols]
  exact List.length_filter_le _ _

/-- Every symbol of the input is in its model. -/
theorem mem_buildModel {src : List Byte} {b : Byte} (h : b ∈ src) : (b, src.count b) ∈ buildModel src := by
  rw [buildModel_eq]
  exact List.mem_map.mpr ⟨b, List.mem_filter.mpr ⟨mem_allSymbols b, by simpa using h⟩, rfl⟩

/-- The counts of an input add up to its length (R102). -/
theorem total_buildModel (src : List Byte) : (buildModel src).total = src.length := by
  have hperm : (allSymbols.filter fun s => decide (s ∈ src)).Perm src.dedup := by
    refine (List.perm_ext_iff_of_nodup (nodup_allSymbols.filter _) src.nodup_dedup).mpr fun b => ?_
    simp [mem_allSymbols]
  rw [FreqModel.total, buildModel_eq, List.map_map, (hperm.map _).sum_eq]
  exact List.sum_map_count_dedup_eq_length src

/-! ## Well-formed models (R16) -/

/-- The order of records: strictly ascending symbols (R16, R77). -/
def SymbolLt (p q : Byte × Nat) : Prop := p.1.toNat < q.1.toNat

/-- `ascending` compares every two records, not only neighbours. -/
theorem ascending_iff (m : FreqModel) : ascending m = true ↔ m.Pairwise SymbolLt := by
  have hchain : ascending m = true ↔ m.IsChain SymbolLt := by
    fun_induction ascending m <;> simp_all [SymbolLt]
  have htrans : IsTrans (Byte × Nat) SymbolLt := ⟨fun _ _ _ => Nat.lt_trans⟩
  rw [hchain, List.isChain_iff_pairwise]

/-- A well-formed model, as propositions. -/
theorem freqModel_wf_iff (m : FreqModel) :
    FreqModel.wf m = true ↔
      m.length ≤ 256 ∧ m.Pairwise SymbolLt ∧ (∀ p ∈ m, 1 ≤ p.2) ∧ m.total ≤ 0x3FFFFFFF := by
  unfold FreqModel.wf Config.alphabet Config.maxLen
  simp only [Bool.and_eq_true, decide_eq_true_eq, ascending_iff, List.all_eq_true, and_assoc]

/-- A record's frequency is at most the total. -/
theorem freq_le_total {m : FreqModel} {p : Byte × Nat} (h : p ∈ m) : p.2 ≤ m.total :=
  List.le_sum_of_mem (List.mem_map_of_mem h)

/-- The model of an input no longer than MAX_LEN is well formed. -/
theorem buildModel_wf {src : List Byte} (h : src.length ≤ 0x3FFFFFFF) : FreqModel.wf (buildModel src) = true := by
  refine (freqModel_wf_iff _).mpr ⟨length_buildModel_le src, ?_, ?_, by rwa [total_buildModel]⟩ <;> rw [buildModel_eq]
  · exact List.pairwise_map.mpr (allSymbols_pairwise.filter _)
  · intro p hp
    obtain ⟨b, hb, rfl⟩ := List.mem_map.mp hp
    exact List.count_pos_iff.mpr (by simpa using (List.mem_filter.mp hb).2)

/-! ## The header parser (R106) -/

/-- What the record parser accepts: `k` records, each of frequency at least 1, ascending after the symbol before. -/
theorem parseRecords_ok {k : Nat} {prev : Option Byte} {bs : List Byte} {m : FreqModel}
    (h : parseRecords k prev bs = .ok m) :
    m.length = k ∧ m.Pairwise SymbolLt ∧ (∀ p ∈ m, 1 ≤ p.2) ∧ ∀ q ∈ prev, ∀ p ∈ m, q.toNat < p.1.toNat := by
  fun_induction parseRecords k prev bs generalizing m with
  | case1 => cases h; simp
  | case2 | case3 | case5 | case6 => cases h
  | case4 k prev s b3 b2 b1 b0 bs hfreq hprev m' hm' ih =>
    cases h
    obtain ⟨hlen, hpair, hpos, hafter⟩ := ih hm'
    have hs : ∀ p ∈ m', s.toNat < p.1.toNat := hafter s rfl
    have hq : ∀ q ∈ prev, q.toNat < s.toNat := fun q hq => by simp_all
    refine ⟨by simp [hlen], List.pairwise_cons.mpr ⟨hs, hpair⟩, ?_, fun q hmem => ?_⟩
    · exact List.forall_mem_cons.mpr ⟨Nat.one_le_iff_ne_zero.mpr hfreq, hpos⟩
    · exact List.forall_mem_cons.mpr ⟨hq q hmem, fun p hp => Nat.lt_trans (hq q hmem) (hs p hp)⟩

/-- What the header parser accepts has a well-formed model, its total, and no more bits than the source holds. -/
theorem parseHeader_ok {src : List Byte} {ari : Bool} {h : Header} (hp : parseHeader src ari = .ok h) :
    FreqModel.wf h.model = true ∧ h.total = h.model.total ∧ h.nBits ≤ 8 * src.length := by
  unfold parseHeader at hp
  simp only at hp
  generalize 2 + 5 * natBE (src.take 2) + (if ari = true then 4 else 0) = hdr at hp
  repeat' split at hp
  all_goals cases hp
  rename_i hn _ _ m hm htotal _ _ _
  obtain ⟨hlen, hpair, hpos, _⟩ := parseRecords_ok hm
  refine ⟨(freqModel_wf_iff m).mpr ⟨?_, hpair, hpos, Nat.le_of_not_lt htotal⟩, rfl, ?_⟩
  · rw [hlen]; exact Nat.le_of_not_lt hn
  · simp only [List.length_drop]
    omega

/-! ## The frequency table (R39) -/

/-- The table has one count for each symbol, none above the model's total. -/
theorem tableOf_bounds {m : FreqModel} (hm : FreqModel.wf m = true) :
    (tableOf m).length ≤ 256 ∧ ∀ f ∈ tableOf m, f ≤ 0x3FFFFFFF := by
  obtain ⟨_, _, _, htotal⟩ := (freqModel_wf_iff m).mp hm
  refine ⟨by simp [tableOf], fun f hf => ?_⟩
  obtain ⟨b, _, rfl⟩ := List.mem_map.mp hf
  split
  · exact Nat.le_trans (freq_le_total (List.mem_of_find?_eq_some ‹_›)) htotal
  · exact Nat.zero_le _

end Sys2Proof.Machine
end

section
/-! # The Huffman units keep to their bounds (R123, R126, R129) -/

namespace Sys2Proof.Machine

/-! ## The tree builder's collection -/

theorem leaves_length_pos (t : HuffTree) : 1 ≤ t.leaves.length := by
  induction t with
  | leaf => exact Nat.le_refl 1
  | node f i l r ihl ihr => rw [HuffTree.leaves, List.length_append]; omega

/-- A tree of n leaves has 2n − 1 nodes. -/
theorem store_length (t : HuffTree) : t.store.length + 1 = 2 * t.leaves.length := by
  induction t with
  | leaf => rfl
  | node f i l r ihl ihr =>
    simp only [HuffTree.store, HuffTree.leaves, List.length_append, List.length_singleton]
    omega

/-- The leaves of all the trees of a collection. -/
def forestLeaves (q : List HuffTree) : FreqModel := q.flatMap HuffTree.leaves

/-- A collection has no more trees than leaves. -/
theorem length_le_forestLeaves (q : List HuffTree) : q.length ≤ (forestLeaves q).length := by
  induction q with
  | nil => exact Nat.le_refl 0
  | cons t q ih =>
    have := leaves_length_pos t
    rw [forestLeaves, List.flatMap_cons, List.length_append, List.length_cons]
    exact Nat.le_trans (Nat.add_le_add ih this) (Nat.le_of_eq (Nat.add_comm _ _))

/-- A tree of a collection has no more leaves than the collection. -/
theorem leaves_le_forestLeaves {t : HuffTree} {q : List HuffTree} (h : t ∈ q) :
    t.leaves.length ≤ (forestLeaves q).length := by
  rw [forestLeaves, List.length_flatMap]
  exact List.le_sum_of_mem (List.mem_map_of_mem h)

/-- The collection that BuildTree starts from has the model's records as its leaves (R121). -/
theorem forestLeaves_leavesFrom (r : Nat) (m : FreqModel) : forestLeaves (leavesFrom r m) = m := by
  induction m generalizing r with
  | nil => rfl
  | cons p m ih => exact congrArg (p :: ·) (ih (r + 1))

/-- Taking the smallest node out of a collection loses none (R123). -/
theorem popMin_perm (a : HuffTree) (q : List HuffTree) : ((popMin a q).1 :: (popMin a q).2).Perm (a :: q) := by
  induction q generalizing a with
  | nil => exact .refl _
  | cons b q ih =>
    unfold popMin
    split
    · exact (List.Perm.swap _ _ _).trans ((ih b).cons a)
    · exact (List.Perm.swap _ _ _).trans (((ih a).cons b).trans (.swap _ _ _))

/-- A pass of the loop of R123 keeps the leaves. -/
theorem mergeTwo_forestLeaves (next : Nat) (a b : HuffTree) (q : List HuffTree) :
    (forestLeaves (mergeTwo next a b q)).Perm (forestLeaves (a :: b :: q)) := by
  have hfirst := popMin_perm a (b :: q)
  unfold mergeTwo
  simp only
  split
  · rename_i hnil
    rw [hnil] at hfirst
    exact hfirst.flatMap_right _
  · rename_i c rest hcons
    rw [hcons] at hfirst
    have hboth := ((popMin_perm c rest).cons _).trans hfirst
    simpa [forestLeaves, HuffTree.leaves] using hboth.flatMap_right HuffTree.leaves

/-- The loop of R123 keeps the leaves. -/
theorem mergeLoop_forestLeaves (k next : Nat) (q : List HuffTree) :
    (forestLeaves (mergeLoop k next q)).Perm (forestLeaves q) := by
  fun_induction mergeLoop k next q with
  | case1 k next a b q ih => exact ih.trans (mergeTwo_forestLeaves next a b q)
  | case2 => exact .refl _

/-- No pass of the loop of R123 has more nodes in the collection than the model has records. -/
theorem length_mergeLoop_le (k : Nat) (m : FreqModel) :
    (mergeLoop k m.length (leavesFrom 0 m)).length ≤ m.length := by
  have hperm := (mergeLoop_forestLeaves k m.length (leavesFrom 0 m)).length_eq
  rw [forestLeaves_leavesFrom] at hperm
  exact (length_le_forestLeaves _).trans hperm.le

/-- A model's tree has no more leaves than the model has records. -/
theorem buildTree_leaves_le {m : FreqModel} {t : HuffTree} (h : buildTree m = some t) :
    t.leaves.length ≤ m.length := by
  have hperm := (mergeLoop_forestLeaves m.length m.length (leavesFrom 0 m)).length_eq
  rw [forestLeaves_leavesFrom] at hperm
  exact (leaves_le_forestLeaves (List.mem_of_head? h)).trans hperm.le

/-! ## The codeword assigner at every pass -/

/-- What every pass of R126 keeps, for a tree of `n` leaves: the leaves still below the stack and those that have a
codeword are at most `n`, and a path is short enough for the leaves below its node to be among them. -/
structure Assigner.Bounded (n : Nat) (a : Assigner) : Prop where
  leaves : (forestLeaves (a.stack.map Prod.fst)).length + a.codes.length ≤ n
  paths  : ∀ e ∈ a.stack, e.2.length + e.1.leaves.length ≤ n
  codes  : ∀ p ∈ a.codes, p.2.length + 1 ≤ n

theorem assigner_bounded_start (root : HuffTree) : (Assigner.start root).Bounded root.leaves.length where
  leaves := by simp [Assigner.start, forestLeaves]
  paths := by simp [Assigner.start]
  codes := nofun

theorem assigner_bounded_pass {n : Nat} {a : Assigner} (h : a.Bounded n) : a.pass.Bounded n := by
  obtain ⟨stack, codes⟩ := a
  obtain ⟨hleaves, hpaths, hcodes⟩ := h
  unfold Assigner.pass
  split
  · exact ⟨hleaves, hpaths, hcodes⟩
  · rename_i s f i p st hstack
    subst hstack
    obtain ⟨hp, hst⟩ := List.forall_mem_cons.mp hpaths
    refine ⟨?_, hst, List.forall_mem_append.mpr ⟨hcodes, List.forall_mem_singleton.mpr hp⟩⟩
    simp only [forestLeaves, List.map_cons, List.flatMap_cons, HuffTree.leaves, List.length_append,
      List.length_singleton] at hleaves ⊢
    omega
  · rename_i f i l r p st hstack
    subst hstack
    obtain ⟨hp, hst⟩ := List.forall_mem_cons.mp hpaths
    have hl := leaves_length_pos l
    have hr := leaves_length_pos r
    simp only [HuffTree.leaves, List.length_append] at hp
    refine ⟨?_, List.forall_mem_cons.mpr ⟨?_, List.forall_mem_cons.mpr ⟨?_, hst⟩⟩, hcodes⟩
    · simpa [forestLeaves, HuffTree.leaves, Nat.add_assoc] using hleaves
    · simp only [List.length_append, List.length_singleton]; omega
    · simp only [List.length_append, List.length_singleton]; omega

theorem assigner_bounded_run {n : Nat} {a : Assigner} (k : Nat) (h : a.Bounded n) : (a.run k).Bounded n := by
  induction k generalizing a with
  | zero => exact h
  | succ k ih => exact ih (assigner_bounded_pass h)

/-- A traversal that keeps its measure stays within the sizes of R129. -/
theorem assigner_sizes_of_bounded {n : Nat} {a : Assigner} (hn : n ≤ 256) (h : a.Bounded n) :
    a.stack.length ≤ 256 ∧ (∀ e ∈ a.stack, e.2.length ≤ 255) ∧
      a.codes.length ≤ 256 ∧ ∀ p ∈ a.codes, p.2.length ≤ 255 := by
  obtain ⟨hleaves, hpaths, hcodes⟩ := h
  have hstack := length_le_forestLeaves (a.stack.map Prod.fst)
  rw [List.length_map] at hstack
  refine ⟨by omega, fun e he => ?_, by omega, fun p hp => ?_⟩
  · have := hpaths e he
    have := leaves_length_pos e.1
    omega
  · have := hcodes p hp
    omega

/-! ## The codeword assigner at its end -/

/-- The assigner ends with an empty stack (R126, R127). -/
theorem assign_stack (root : HuffTree) : (assign root).stack = [] := by
  cases root with
  | leaf => rfl
  | node f i l r => rw [assign_node]

/-- Every path goes on from where it began. -/
theorem pathsFrom_length (t : HuffTree) (p : Bits) : ∀ q ∈ pathsFrom t p, p.length ≤ q.2.length := by
  induction t generalizing p with
  | leaf s f i => simp [pathsFrom]
  | node f i l r ihl ihr =>
    refine List.forall_mem_append.mpr ⟨fun q hq => ?_, fun q hq => ?_⟩
    · exact Nat.le_trans (by simp) (ihl _ q hq)
    · exact Nat.le_trans (by simp) (ihr _ q hq)

/-- No codeword is empty (R126, R127). -/
theorem assignCodes_nonempty (root : HuffTree) : ∀ p ∈ assignCodes root, 1 ≤ p.2.length := by
  cases root with
  | leaf s f i => exact List.forall_mem_singleton.mpr (Nat.le_refl 1)
  | node f i l r =>
    rw [assignCodes, assign_node]
    exact List.forall_mem_append.mpr ⟨pathsFrom_length l [false], pathsFrom_length r [true]⟩

/-- The code table of a tree of at most 256 leaves, and the lengths of its codewords (R128, R129). -/
theorem assignCodes_sizes {root : HuffTree} (h : root.leaves.length ≤ 256) :
    (assignCodes root).length ≤ 256 ∧ ∀ p ∈ assignCodes root, 1 ≤ p.2.length ∧ p.2.length ≤ 255 := by
  have hsizes : (assignCodes root).length ≤ 256 ∧ ∀ p ∈ assignCodes root, p.2.length ≤ 255 := by
    cases root with
    | leaf s f i => simp [assignCodes, assign]
    | node f i l r => exact (assigner_sizes_of_bounded h (assigner_bounded_run _ (assigner_bounded_start _))).2.2
  exact ⟨hsizes.1, fun p hp => ⟨assignCodes_nonempty root p hp, hsizes.2 p hp⟩⟩

end Sys2Proof.Machine
end

section
/-! # The arithmetic coder's registers stay P-bit values (R152, R153, R154, R162) -/

namespace Sys2Proof.Machine

/-! ## The partition (R150) -/

/-- Every sub-interval is non-empty and lies between the counts where the partition begins and ends. -/
theorem partitionFrom_bounds {c : Nat} {m : FreqModel} (hpos : ∀ p ∈ m, 1 ≤ p.2) :
    ∀ e ∈ partitionFrom c m, e.cumLow < e.cumHigh ∧ e.cumHigh ≤ c + m.total := by
  induction m generalizing c with
  | nil => exact nofun
  | cons p m ih =>
    obtain ⟨hp, hm⟩ := List.forall_mem_cons.mp hpos
    have htotal : FreqModel.total (p :: m) = p.2 + FreqModel.total m := rfl
    refine List.forall_mem_cons.mpr ⟨⟨by simp only; omega, by simp only; omega⟩, fun e he => ?_⟩
    obtain ⟨hlow, hhigh⟩ := ih hm e he
    exact ⟨hlow, by omega⟩

/-- The partition names the model's symbols in their order. -/
theorem partitionFrom_syms (c : Nat) (m : FreqModel) :
    (partitionFrom c m).map PartEntry.sym = m.map Prod.fst := by
  induction m generalizing c with
  | nil => rfl
  | cons p m ih => exact congrArg (p.1 :: ·) (ih _)

/-- A symbol of the model has its entry in the partition. -/
theorem entryOf_mem {m : FreqModel} {b : Byte} (h : b ∈ m.map Prod.fst) : entryOf (partition m) b ∈ partition m := by
  rw [← partitionFrom_syms 0] at h
  obtain ⟨e, he, rfl⟩ := List.mem_map.mp h
  unfold entryOf
  split
  · exact List.mem_of_find?_eq_some ‹_›
  · rename_i hnone
    exact absurd (List.find?_eq_none.mp hnone e he) (by simp)

/-- The search ends with the entry whose sub-interval holds `cum` (R161). -/
theorem searchFrom_holds {m : FreqModel} {c cum : Nat} {e0 : PartEntry} {es : List PartEntry}
    (hpart : partitionFrom c m = e0 :: es) (hlo : c ≤ cum) (hhi : cum < c + m.total) :
    searchFrom e0 es cum ∈ e0 :: es ∧ (searchFrom e0 es cum).cumLow ≤ cum ∧ cum < (searchFrom e0 es cum).cumHigh := by
  induction m generalizing c e0 es with
  | nil => cases hpart
  | cons p m ih =>
    have htotal : FreqModel.total (p :: m) = p.2 + FreqModel.total m := rfl
    obtain ⟨rfl, rfl⟩ := List.cons.inj hpart
    cases hm : partitionFrom (c + p.2) m with
    | nil =>
      have hnil : m = [] := by simpa [hm] using partitionFrom_syms (c + p.2) m
      have hzero : FreqModel.total m = 0 := by rw [hnil]; rfl
      exact ⟨List.mem_cons_self, hlo, by simp only [searchFrom]; omega⟩
    | cons e1 es1 =>
      unfold searchFrom
      split
      · exact ⟨List.mem_cons_self, hlo, ‹_›⟩
      · rename_i hge
        obtain ⟨hmem, hin⟩ := ih hm (Nat.le_of_not_lt hge) (by omega)
        exact ⟨List.mem_cons_of_mem _ hmem, hin⟩

/-! ## Intervals -/

/-- The registers hold a non-empty interval of P-bit values (R152). -/
structure Coder.Inside (c : Coder) : Prop where
  ordered : c.low ≤ c.high
  bounded : c.high < 2 ^ 32

/-- Between two symbols the interval is also wider than QTR (R154), so that no symbol's part of it is empty (R165). -/
structure Coder.Wide (c : Coder) : Prop extends c.Inside where
  wide : qtr ≤ c.high - c.low

/-- What narrowing by a sub-interval of [0, T) needs: T is positive and at most MAX_LEN (R16, R150). -/
structure PartEntry.Within (e : PartEntry) (t : Nat) : Prop where
  nonempty : e.cumLow < e.cumHigh
  below    : e.cumHigh ≤ t
  total    : t ≤ 0x3FFFFFFF

theorem wide_start : Coder.start.Wide := ⟨⟨by decide, by decide⟩, by decide⟩

/-- A non-empty part of T parts of a range of at least T values has a value (R165). -/
theorem scaled_lt {range t lo hi : Nat} (ht : 0 < t) (hrange : t ≤ range) (h : lo < hi) :
    range * lo / t < range * hi / t := by
  have hstep : range * lo + t ≤ range * hi :=
    calc range * lo + t ≤ range * lo + range := Nat.add_le_add_left hrange _
      _ = range * (lo + 1) := by ring
      _ ≤ range * hi := Nat.mul_le_mul_left _ h
  calc range * lo / t < range * lo / t + 1 := Nat.lt_succ_self _
    _ = (range * lo + t) / t := (Nat.add_div_right _ ht).symm
    _ ≤ range * hi / t := Nat.div_le_div_right hstep

/-- No part of T parts of a range ends past the range. -/
theorem scaled_le {range t hi : Nat} (h : hi ≤ t) : range * hi / t ≤ range :=
  Nat.div_le_of_le_mul (by rw [Nat.mul_comm]; exact Nat.mul_le_mul_right _ h)

/-- Narrowing a wide interval gives a non-empty part of it (R153, R165). -/
theorem inside_narrow {c : Coder} {e : PartEntry} {t : Nat} (hc : c.Wide) (he : e.Within t) :
    (c.narrow t e).Inside := by
  obtain ⟨⟨hord, hbnd⟩, hwide⟩ := hc
  obtain ⟨hne, hbelow, htot⟩ := he
  have hqtr : qtr = 2 ^ 30 := rfl
  have ht : 0 < t := by omega
  have hlt := scaled_lt (range := c.high - c.low + 1) ht (by omega) hne
  have hle := scaled_le (range := c.high - c.low + 1) hbelow
  exact ⟨by simp only [Coder.narrow]; omega, by simp only [Coder.narrow]; omega⟩

/-! ## A pass of the renormalization loop -/

/-- An arm that applies takes off what keeps the bounds below HALF (R154). -/
theorem arm_offset {c : Coder} (hc : c.Inside) (ha : c.arm ≠ .exit) :
    c.arm.offset ≤ c.low ∧ c.high < 2 ^ 31 + c.arm.offset := by
  obtain ⟨hord, hbnd⟩ := hc
  have hhalf : half = 2 ^ 31 := rfl
  have hqtr : qtr = 2 ^ 30 := rfl
  have htqtr : tqtr = 3 * 2 ^ 30 := rfl
  unfold Coder.arm at ha ⊢
  split_ifs at ha ⊢ with hlower hupper hmiddle <;> simp only [RenormArm.offset]
  · exact ⟨Nat.zero_le _, by omega⟩
  · exact ⟨hupper, by omega⟩
  · exact ⟨hmiddle.1, by omega⟩
  · exact absurd rfl ha

/-- Where no arm applies the interval is wide (R154). -/
theorem wide_of_exit {c : Coder} (hc : c.Inside) (ha : c.arm = .exit) : c.Wide := by
  refine ⟨hc, ?_⟩
  obtain ⟨hord, hbnd⟩ := hc
  have hhalf : half = 2 ^ 31 := rfl
  have hqtr : qtr = 2 ^ 30 := rfl
  have htqtr : tqtr = 3 * 2 ^ 30 := rfl
  unfold Coder.arm at ha
  split_ifs at ha
  omega

/-- A pass keeps the interval inside and doubles its width (R154). -/
theorem inside_shift {c : Coder} (hc : c.Inside) (ha : c.arm ≠ .exit) :
    (c.shift c.arm).Inside ∧ (c.shift c.arm).high - (c.shift c.arm).low + 1 = 2 * (c.high - c.low + 1) := by
  obtain ⟨hlow, hhigh⟩ := arm_offset hc ha
  have hord := hc.ordered
  refine ⟨⟨?_, ?_⟩, ?_⟩ <;> simp only [Coder.shift] <;> omega

/-- An interval that as many passes as are left would double to the whole range. -/
def Coder.WidensIn (n : Nat) (c : Coder) : Prop := 2 ^ 32 ≤ 2 ^ n * (c.high - c.low + 1)

theorem widensIn_codeBits (c : Coder) : c.WidensIn Config.codeBits :=
  Nat.le_mul_of_pos_right _ (Nat.succ_pos _)

/-- With no pass left the interval is the whole range. -/
theorem wide_of_widensIn_zero {c : Coder} (hc : c.Inside) (h : c.WidensIn 0) : c.Wide := by
  have hqtr : qtr = 2 ^ 30 := rfl
  unfold Coder.WidensIn at h
  exact ⟨hc, by have := hc.bounded; omega⟩

theorem widensIn_shift {n : Nat} {c : Coder} (hc : c.Inside) (ha : c.arm ≠ .exit) (h : c.WidensIn (n + 1)) :
    (c.shift c.arm).WidensIn n := by
  unfold Coder.WidensIn at h ⊢
  rw [(inside_shift hc ha).2, ← Nat.mul_assoc, ← Nat.pow_succ]
  exact h

/-! ## The encoder -/

/-- An arm of the encoder changes no register but `pending` (R154, R155). -/
theorem encodeArm_coder (a : RenormArm) (c : Coder) (w : BitWriter) :
    (encodeArm a c w).1 = { c with pending := (encodeArm a c w).1.pending } := by
  cases a <;> rfl

theorem encodeRenorm_exit {c : Coder} (n : Nat) (w : BitWriter) (ha : c.arm = .exit) :
    encodeRenorm (n + 1) (c, w) = (c, w) := by
  simp [encodeRenorm, ha]

theorem encodeRenorm_pass {c : Coder} (n : Nat) (w : BitWriter) (ha : c.arm ≠ .exit) :
    encodeRenorm (n + 1) (c, w) =
      encodeRenorm n ((encodeArm c.arm c w).1.shift c.arm, (encodeArm c.arm c w).2) := by
  rw [encodeRenorm]
  split
  · exact absurd ‹_› ha
  · rfl

/-- The encoder's loop ends with a wide interval, and does not use `value` (R154). -/
theorem encodeRenorm_wide {n : Nat} {c : Coder} {w : BitWriter} (hc : c.Inside) (hn : c.WidensIn n) :
    (encodeRenorm n (c, w)).1.Wide ∧ (encodeRenorm n (c, w)).1.value = c.value := by
  induction n generalizing c w with
  | zero => exact ⟨wide_of_widensIn_zero hc hn, rfl⟩
  | succ n ih =>
    by_cases ha : c.arm = .exit
    · rw [encodeRenorm_exit n w ha]
      exact ⟨wide_of_exit hc ha, rfl⟩
    · rw [encodeRenorm_pass n w ha, encodeArm_coder]
      have hin := (inside_shift hc ha).1
      have hwidens := widensIn_shift hc ha hn
      exact ih (c := ({ c with pending := _ } : Coder).shift c.arm) ⟨hin.ordered, hin.bounded⟩ hwidens

/-- The encoder keeps a wide interval through its input (R158). -/
theorem encodeSymbols_wide {t : Nat} {part : List PartEntry} {src : List Byte} {st : Coder × BitWriter}
    (hpart : ∀ b ∈ src, (entryOf part b).Within t) (hc : st.1.Wide) :
    (src.foldl (encodeSymbol t part) st).1.Wide ∧ (src.foldl (encodeSymbol t part) st).1.value = st.1.value := by
  induction src generalizing st with
  | nil => exact ⟨hc, rfl⟩
  | cons b src ih =>
    obtain ⟨hb, hsrc⟩ := List.forall_mem_cons.mp hpart
    have hsym := encodeRenorm_wide (w := st.2) (inside_narrow hc hb) (widensIn_codeBits _)
    obtain ⟨hwide, hvalue⟩ := ih (st := encodeSymbol t part st b) hsrc hsym.1
    exact ⟨hwide, hvalue.trans hsym.2⟩

/-! ## The decoder's reader -/

/-- The reader of a payload of `n` bits has read at most `k` bits past them. -/
structure BitReader.Before (n k : Nat) (r : BitReader) : Prop where
  nBits : r.nBits = n
  pos   : r.pos ≤ n + k

theorem before_start (payload : List Byte) (n k : Nat) : (BitReader.start payload n).Before n k :=
  ⟨rfl, Nat.zero_le _⟩

/-- The bit reader reads no bit past the payload's (R182). -/
theorem read_before {n : Nat} {r r' : BitReader} {b : Bool} (hr : r.Before n 0) (h : r.read = .ok (b, r')) :
    r'.Before n 0 := by
  unfold BitReader.read at h
  split at h
  · rename_i hlt
    cases h
    exact ⟨hr.nBits, by rw [hr.nBits] at hlt; exact hlt⟩
  · cases h

/-- The bit source reads at most P − 2 bits past the payload's (R159). -/
theorem bitIn_before {n : Nat} {r r' : BitReader} {b : Bool} (hr : r.Before n 30) (h : r.bitIn = .ok (b, r')) :
    r'.Before n 30 := by
  obtain ⟨hn, _⟩ := hr
  unfold BitReader.bitIn Config.codeBits at h
  rw [hn] at h
  split at h
  · cases h
    exact ⟨hn, by simp only [BitReader.advance]; omega⟩
  · split at h
    · cases h
      exact ⟨hn, by simp only [BitReader.advance]; omega⟩
    · cases h

/-- A bit shifted into `value` (R160, R162). -/
theorem shiftIn_ok {n : Nat} {c c' : Coder} {r r' : BitReader} (hr : r.Before n 30)
    (h : c.shiftIn r = .ok (c', r')) :
    (∃ b : Bool, c' = { c with value := 2 * c.value + b.toNat }) ∧ r'.Before n 30 := by
  unfold Coder.shiftIn at h
  split at h
  · cases h
  · cases h
    exact ⟨⟨_, rfl⟩, bitIn_before hr ‹_›⟩

/-- The first `k` bits of `value` (R160). -/
theorem decodeInit_ok {k n : Nat} {c c' : Coder} {r r' : BitReader} (hr : r.Before n 30)
    (h : decodeInit k c r = .ok (c', r')) :
    (∃ v, c' = { c with value := v } ∧ v < 2 ^ k * (c.value + 1)) ∧ r'.Before n 30 := by
  induction k generalizing c r with
  | zero => cases h; exact ⟨⟨_, rfl, by simp⟩, hr⟩
  | succ k ih =>
    unfold decodeInit at h
    split at h
    · cases h
    · rename_i c1 r1 hbit
      obtain ⟨⟨b, rfl⟩, hr1⟩ := shiftIn_ok hr hbit
      obtain ⟨⟨v, rfl, hv⟩, hr'⟩ := ih hr1 h
      have hb : 2 * c.value + b.toNat + 1 ≤ 2 * (c.value + 1) := by have := b.toNat_le; omega
      refine ⟨⟨v, rfl, Nat.lt_of_lt_of_le hv ?_⟩, hr'⟩
      calc 2 ^ k * (2 * c.value + b.toNat + 1) ≤ 2 ^ k * (2 * (c.value + 1)) := Nat.mul_le_mul_left _ hb
        _ = 2 ^ (k + 1) * (c.value + 1) := by rw [Nat.pow_succ, Nat.mul_assoc]

/-! ## The decoder -/

/-- What the decoder keeps beside its interval: `value` lies in it (R164), no bit is pending, and the reader is not too
far past the payload's `n` bits (R159). -/
structure DecoderHolds (n : Nat) (c : Coder) (r : BitReader) : Prop where
  low     : c.low ≤ c.value
  high    : c.value ≤ c.high
  pending : c.pending = 0
  reader  : r.Before n 30

/-- The scaled value is a cumulative count below T (R161, R164). -/
theorem cum_lt {n t : Nat} {c : Coder} {r : BitReader} (hv : DecoderHolds n c r) (ht : 0 < t) : c.cum t < t := by
  have hrange : (c.value - c.low + 1) * t ≤ (c.high - c.low + 1) * t :=
    Nat.mul_le_mul_right _ (by have := hv.high; omega)
  have hpos : 0 < (c.value - c.low + 1) * t := Nat.mul_pos (Nat.succ_pos _) ht
  exact Nat.div_lt_of_lt_mul (by omega)

/-- Narrowing by the sub-interval that holds the scaled value keeps `value` inside (R161, R164). -/
theorem holds_narrow {n t : Nat} {c : Coder} {e : PartEntry} {r : BitReader} (hv : DecoderHolds n c r)
    (he : e.Within t) (hlo : e.cumLow ≤ c.cum t) (hhi : c.cum t < e.cumHigh) :
    DecoderHolds n (c.narrow t e) r := by
  obtain ⟨hlow, _, hpending, hreader⟩ := hv
  have ht : 0 < t := Nat.lt_of_lt_of_le (Nat.zero_lt_of_lt he.nonempty) he.below
  have hpos : 0 < (c.value - c.low + 1) * t := Nat.mul_pos (Nat.succ_pos _) ht
  have hbelow : (c.high - c.low + 1) * e.cumLow / t < c.value - c.low + 1 := by
    have hmul := Nat.mul_le_mul_left (c.high - c.low + 1) hlo
    have hdiv : (c.high - c.low + 1) * c.cum t ≤ (c.value - c.low + 1) * t - 1 := Nat.mul_div_le _ _
    exact Nat.div_lt_of_lt_mul (by rw [Nat.mul_comm t]; omega)
  have habove : c.value - c.low + 1 ≤ (c.high - c.low + 1) * e.cumHigh / t := by
    have hmul := Nat.mul_le_mul_left (c.high - c.low + 1) hhi
    have hdiv : (c.value - c.low + 1) * t - 1 < (c.high - c.low + 1) * (c.cum t + 1) :=
      Nat.lt_mul_div_succ _ (Nat.succ_pos _)
    exact (Nat.le_div_iff_mul_le ht).mpr (by rw [Nat.succ_eq_add_one] at hmul; omega)
  exact ⟨by simp only [Coder.narrow]; omega, by simp only [Coder.narrow]; omega, hpending, hreader⟩

/-- The decoder's registers before a pass reads its bit (R162). -/
def Coder.decodeShift (c : Coder) : Coder := { c.shift c.arm with value := c.value - c.arm.offset }

theorem decodeRenorm_exit {c : Coder} (n : Nat) (r : BitReader) (ha : c.arm = .exit) :
    decodeRenorm (n + 1) c r = .ok (c, r) := by
  simp [decodeRenorm, ha]

/-- A pass of the decoder's loop that is followed by others (R162). -/
theorem decodeRenorm_pass {n : Nat} {c c' : Coder} {r r' : BitReader} (ha : c.arm ≠ .exit)
    (h : decodeRenorm (n + 1) c r = .ok (c', r')) :
    ∃ c1 r1, c.decodeShift.shiftIn r = .ok (c1, r1) ∧ decodeRenorm n c1 r1 = .ok (c', r') := by
  unfold decodeRenorm at h
  split at h
  · exact absurd ‹_› ha
  · split at h
    · cases h
    · exact ⟨_, _, ‹_›, h⟩

/-- A pass keeps `value` in the interval (R162, R164). -/
theorem holds_shiftIn {n : Nat} {c c1 : Coder} {r r1 : BitReader} (hc : c.Inside) (ha : c.arm ≠ .exit)
    (hv : DecoderHolds n c r) (h : c.decodeShift.shiftIn r = .ok (c1, r1)) :
    DecoderHolds n c1 r1 ∧ c1.low = (c.shift c.arm).low ∧ c1.high = (c.shift c.arm).high := by
  obtain ⟨hlow, hhigh, hpending, hreader⟩ := hv
  obtain ⟨⟨b, rfl⟩, hr1⟩ := shiftIn_ok hreader h
  have hoff := (arm_offset hc ha).1
  have hb := b.toNat_le
  refine ⟨⟨?_, ?_, hpending, hr1⟩, rfl, rfl⟩ <;> simp only [Coder.decodeShift, Coder.shift] <;> omega

/-- The decoder's loop ends with a wide interval that holds `value` (R162, R164). -/
theorem decodeRenorm_wide {k n : Nat} {c c' : Coder} {r r' : BitReader} (hc : c.Inside) (hk : c.WidensIn k)
    (hv : DecoderHolds n c r) (h : decodeRenorm k c r = .ok (c', r')) : c'.Wide ∧ DecoderHolds n c' r' := by
  induction k generalizing c r with
  | zero => cases h; exact ⟨wide_of_widensIn_zero hc hk, hv⟩
  | succ k ih =>
    by_cases ha : c.arm = .exit
    · rw [decodeRenorm_exit k r ha] at h
      cases h
      exact ⟨wide_of_exit hc ha, hv⟩
    · obtain ⟨c1, r1, hbit, hrest⟩ := decodeRenorm_pass ha h
      obtain ⟨hv1, hl, hh⟩ := holds_shiftIn hc ha hv hbit
      have hin := (inside_shift hc ha).1
      have hwidens := widensIn_shift hc ha hk
      unfold Coder.WidensIn at hwidens ih
      rw [← hl, ← hh] at hwidens
      exact ih ⟨hl ▸ hh ▸ hin.ordered, hh ▸ hin.bounded⟩ hwidens hv1 hrest

/-- The decoder keeps a wide interval that holds `value` through its output (R163). -/
theorem arithmeticSymbols_wide {m : FreqModel} {e0 : PartEntry} {es : List PartEntry} {k n : Nat} {c c' : Coder}
    {r r' : BitReader} {out : List Byte} (hpart : partition m = e0 :: es)
    (hwithin : ∀ e ∈ partition m, e.Within m.total) (hc : c.Wide) (hv : DecoderHolds n c r)
    (h : arithmeticSymbols m.total e0 es k c r = .ok (out, c', r')) : c'.Wide ∧ DecoderHolds n c' r' := by
  induction k generalizing c r out with
  | zero => cases h; exact ⟨hc, hv⟩
  | succ k ih =>
    unfold arithmeticSymbols at h
    simp only at h
    split at h
    · cases h
    · rename_i c1 r1 hrenorm
      split at h
      · cases h
      · rename_i hrest
        cases h
        have he0 := hwithin e0 (hpart ▸ List.mem_cons_self)
        have ht : 0 < m.total := Nat.lt_of_lt_of_le (Nat.zero_lt_of_lt he0.nonempty) he0.below
        obtain ⟨hmem, hlo, hhi⟩ :=
          searchFrom_holds (cum := c.cum m.total) hpart (Nat.zero_le _) (by rw [Nat.zero_add]; exact cum_lt hv ht)
        have he := hwithin _ (hpart ▸ hmem)
        obtain ⟨hc1, hv1⟩ :=
          decodeRenorm_wide (inside_narrow hc he) (widensIn_codeBits _) (holds_narrow hv he hlo hhi) hrenorm
        exact ih hc1 hv1 hrest

end Sys2Proof.Machine
end

section
/-! # The working state keeps to its bounds (R39, R129, R152) -/

namespace Sys2Proof.Machine

/-! ## The working state without a command, and from START on -/

theorem fits_empty : Work.empty.Fits where
  freqTable := by decide
  nodes := by decide
  queue := by decide
  stack := by decide
  codes := by decide
  writer := by decide
  readIndex := by decide
  coder := by decide
  coderIndex := by decide

theorem fits_init : Work.init.Fits :=
  { fits_empty with
    freqTable := ⟨List.length_replicate.le, fun f hf => by rw [List.eq_of_mem_replicate hf]; exact Nat.zero_le _⟩
    coder := by decide }

/-! ## What the units leave of a well-formed model -/

/-- The assigner's stack is empty at its end (R126). -/
theorem stackOfModel_eq_nil (m : FreqModel) : stackOfModel m = [] := by
  unfold stackOfModel
  split
  · rw [assign_stack]; rfl
  · rfl

/-- The bit writer has at most seven bits of an unfinished byte (R39). -/
theorem regs_count_le (w : BitWriter) : w.regs.count ≤ 7 := Nat.le_of_lt_succ (Nat.mod_lt _ (by decide))

/-- A well-formed model's tree has at most 256 leaves. -/
theorem leaves_le_alphabet {m : FreqModel} {t : HuffTree} (hm : FreqModel.wf m = true) (ht : buildTree m = some t) :
    t.leaves.length ≤ 256 :=
  (buildTree_leaves_le ht).trans ((freqModel_wf_iff m).mp hm).1

/-- The node store of a well-formed model's tree has at most 511 entries (R39). -/
theorem store_length_le {m : FreqModel} {t : HuffTree} (hm : FreqModel.wf m = true) (ht : buildTree m = some t) :
    t.store.length ≤ 511 := by
  have hleaves := leaves_le_alphabet hm ht
  have hstore := store_length t
  omega

theorem codesOfModel_sizes {m : FreqModel} (hm : FreqModel.wf m = true) :
    (codesOfModel m).length ≤ 256 ∧ ∀ p ∈ codesOfModel m, 1 ≤ p.2.length ∧ p.2.length ≤ 255 := by
  unfold codesOfModel
  split
  · exact assignCodes_sizes (leaves_le_alphabet hm ‹_›)
  · simp

theorem fits_modelWork {m : FreqModel} (hm : FreqModel.wf m = true) : (modelWork m).Fits :=
  { fits_init with freqTable := tableOf_bounds hm }

theorem fits_treeWork {m : FreqModel} (hm : FreqModel.wf m = true) : (treeWork m).Fits := by
  have hfits := fits_modelWork hm
  unfold treeWork
  split
  · exact hfits
  · exact { hfits with nodes := store_length_le hm ‹_›, queue := by simp }

theorem fits_codeWork {m : FreqModel} (w : BitWriter) (hm : FreqModel.wf m = true) : (codeWork m w).Fits := by
  unfold codeWork
  rw [stackOfModel_eq_nil]
  exact { fits_treeWork hm with stack := by simp, codes := codesOfModel_sizes hm, writer := regs_count_le w }

/-! ## What the arithmetic coder leaves (R152 to R163) -/

/-- Every sub-interval of a well-formed model's partition can be narrowed by (R150, R165). -/
theorem partition_within {m : FreqModel} (hm : FreqModel.wf m = true) : ∀ e ∈ partition m, e.Within m.total := by
  obtain ⟨_, _, hpos, htotal⟩ := (freqModel_wf_iff m).mp hm
  intro e he
  obtain ⟨hlow, hhigh⟩ := partitionFrom_bounds hpos e he
  exact ⟨hlow, by rwa [Nat.zero_add] at hhigh, htotal⟩

/-- The encoder's registers after its last symbol are P-bit values, and no bit is pending (R156). -/
theorem arithmeticEncode_coder {src : List Byte} (hm : FreqModel.wf (buildModel src) = true) :
    let c := (arithmeticEncode (buildModel src) src).1
    c.low < 2 ^ 32 ∧ c.high < 2 ^ 32 ∧ c.value < 2 ^ 32 ∧ c.pending < 2 ^ 35 := by
  have hpart : ∀ b ∈ src, (entryOf (partition (buildModel src)) b).Within (buildModel src).total := fun b hb =>
    partition_within hm _ (entryOf_mem (List.mem_map.mpr ⟨_, mem_buildModel hb, rfl⟩))
  obtain ⟨⟨⟨hord, hbnd⟩, _⟩, hvalue⟩ := encodeSymbols_wide (st := (Coder.start, BitWriter.empty)) hpart wide_start
  exact ⟨Nat.lt_of_le_of_lt hord hbnd, hbnd, Nat.lt_of_le_of_lt (Nat.le_of_eq hvalue) (by decide), Nat.two_pow_pos 35⟩

/-- The decoder's first registers (R160). -/
theorem decoder_start {n : Nat} {payload : List Byte} {c : Coder} {r : BitReader}
    (h : decodeInit Config.codeBits Coder.start (BitReader.start payload n) = .ok (c, r)) :
    c.Wide ∧ DecoderHolds n c r := by
  obtain ⟨⟨v, rfl, hv⟩, hr⟩ := decodeInit_ok (before_start payload n 30) h
  have hstart := wide_start
  refine ⟨⟨⟨hstart.ordered, hstart.bounded⟩, hstart.wide⟩, ⟨Nat.zero_le _, ?_, rfl, hr⟩⟩
  have hfull : full = 2 ^ 32 - 1 := rfl
  have hbits : 2 ^ Config.codeBits * (Coder.start.value + 1) = 2 ^ 32 := rfl
  simp only [Coder.start]
  omega

/-! ## What the Huffman decoder's reader leaves (R131, R182) -/

theorem walk_before {n : Nat} {t : HuffTree} {r r' : BitReader} {b : Byte} (hr : r.Before n 0)
    (h : walk t r = .ok (b, r')) : r'.Before n 0 := by
  induction t generalizing r with
  | leaf s f i => cases h; exact hr
  | node f i l rt ihl ihr =>
    unfold walk at h
    split at h
    · cases h
    · have hr1 := read_before hr ‹_›
      split at h
      · exact ihr hr1 h
      · exact ihl hr1 h

theorem huffmanSymbol_before {n : Nat} {t : HuffTree} {r r' : BitReader} {b : Byte} (hr : r.Before n 0)
    (h : huffmanSymbol t r = .ok (b, r')) : r'.Before n 0 := by
  unfold huffmanSymbol at h
  split at h
  · split at h
    · cases h
    · cases h; exact read_before hr ‹_›
  · exact walk_before hr h

theorem huffmanSymbols_before {k n : Nat} {t : HuffTree} {r r' : BitReader} {out : List Byte} (hr : r.Before n 0)
    (h : huffmanSymbols t k r = .ok (out, r')) : r'.Before n 0 := by
  induction k generalizing r out with
  | zero => cases h; exact hr
  | succ k ih =>
    unfold huffmanSymbols at h
    split at h
    · cases h
    · have hr1 := huffmanSymbol_before hr ‹_›
      split at h
      · cases h
      · cases h; exact ih hr1 ‹_›

/-! ## What the bodies leave -/

section
variable {src : List Byte} {dc : Nat} {b : BodyOut}

theorem fits_bodyFreq (hlen : src.length ≤ 0x3FFFFFFF) (h : bodyOf .freq src dc = .ok b) : b.work.Fits := by
  cases h
  exact fits_modelWork (buildModel_wf hlen)

theorem fits_bodyHenc (hlen : src.length ≤ 0x3FFFFFFF) (h : bodyOf .henc src dc = .ok b) : b.work.Fits := by
  have hm := buildModel_wf hlen
  simp only [bodyOf, bodyHenc] at h
  split at h <;> cases h
  · exact fits_modelWork hm
  · exact fits_codeWork _ hm

theorem fits_bodyHcodes (hlen : src.length ≤ 0x3FFFFFFF) (h : bodyOf .hcodes src dc = .ok b) : b.work.Fits := by
  have hm := buildModel_wf hlen
  simp only [bodyOf, bodyHcodes] at h
  split at h <;> cases h
  · exact fits_modelWork hm
  · exact fits_codeWork _ hm

theorem fits_bodyAenc (hlen : src.length ≤ 0x3FFFFFFF) (h : bodyOf .aenc src dc = .ok b) : b.work.Fits := by
  have hm := buildModel_wf hlen
  simp only [bodyOf, bodyAenc] at h
  split at h <;> cases h
  · exact fits_modelWork hm
  · exact { fits_modelWork hm with coder := arithmeticEncode_coder hm, writer := regs_count_le _ }

theorem fits_bodyHdec (hlen : src.length < 2 ^ 32) (h : bodyOf .hdec src dc = .ok b) : b.work.Fits := by
  simp only [bodyOf, bodyHdec] at h
  split at h
  · cases h
  · rename_i hdr hparse
    obtain ⟨hm, _, hbits⟩ := parseHeader_ok hparse
    split at h
    · cases h
    · split at h
      · cases h
        exact fits_modelWork hm
      · split at h
        · cases h
        · cases h
          have hpos := (huffmanSymbols_before (before_start _ _ 0) ‹_›).pos
          exact { fits_treeWork hm with readIndex := by simp only; omega }

theorem fits_bodyAdec (hlen : src.length < 2 ^ 32) (h : bodyOf .adec src dc = .ok b) : b.work.Fits := by
  simp only [bodyOf, bodyAdec] at h
  split at h
  · cases h
  · rename_i hdr hparse
    obtain ⟨hm, htotal, hbits⟩ := parseHeader_ok hparse
    have hfits := fits_modelWork hm
    split at h
    · cases h
    · split at h
      · cases h; exact hfits
      · cases h; exact hfits
      · cases h; exact hfits
      · rename_i hpart _ _
        split at h
        · cases h
        · obtain ⟨hc, hv⟩ := decoder_start ‹_›
          rw [htotal] at h
          split at h
          · cases h
          · cases h
            obtain ⟨⟨⟨hord, hbnd⟩, _⟩, ⟨hlow, hhigh, hpending, hreader⟩⟩ :=
              arithmeticSymbols_wide hpart (partition_within hm) hc hv ‹_›
            have hpos := hreader.pos
            exact { hfits with
              coder := ⟨by simp only; omega, hbnd, by simp only; omega, by simp only; omega⟩
              coderIndex := by simp only; omega }

end

/-- An encoder past its first checks has a source no longer than MAX_LEN (R206). -/
theorem preCheck_limitsLength {i : Instr} {l : Latch} (h : preCheck i l = none) (hi : limitsLength i = true) :
    l.sl.toNat ≤ 0x3FFFFFFF := by
  unfold preCheck at h
  split_ifs at h with _ _ hlen
  rw [hi, Bool.true_and, decide_eq_true_iff] at hlen
  exact Nat.le_of_not_lt hlen

/-- What a command past its first checks can leave of the working state is within the bounds. -/
theorem fits_of_returns {s : State} {i : Instr} {r : Running} {b : BodyOut} (h : Returns s i r b) : b.work.Fits := by
  obtain ⟨hp, hempty | hbody⟩ := h
  · exact hempty ▸ fits_empty
  · have hsrc : (s.source r.latch).length = r.latch.sl.toNat := Memory.length_readBytes _ _ _
    have hword : (s.source r.latch).length < 2 ^ 32 := hsrc ▸ r.latch.sl.isLt
    have hmax : limitsLength i = true → (s.source r.latch).length ≤ 0x3FFFFFFF := fun hi =>
      hsrc ▸ preCheck_limitsLength hp hi
    cases i with
    | freq => exact fits_bodyFreq (hmax rfl) hbody
    | henc => exact fits_bodyHenc (hmax rfl) hbody
    | hdec => exact fits_bodyHdec hword hbody
    | hcodes => exact fits_bodyHcodes (hmax rfl) hbody
    | aenc => exact fits_bodyAenc (hmax rfl) hbody
    | adec => exact fits_bodyAdec hword hbody

/-! ## Every step -/

/-- However a command ends, the working state is within the bounds. -/
theorem fits_of_commandEnd {s s' : State} {r : Running} {returns : BodyOut → Prop} (hs : s.work.Fits)
    (hreturns : ∀ b, returns b → b.work.Fits) (h : CommandEnd s r returns s') : s'.work.Fits := by
  cases h with
  | stalled n => exact hs
  | refused code _ => exact fits_empty
  | failed n code _ => exact fits_empty
  | unspecified => exact fits_empty
  | succeeded n b hb _ => exact hreturns b hb

theorem fits_writeCsr {s : State} (c : Csr) (v : Word) (hs : s.work.Fits) : (s.writeCsr c v).work.Fits := by
  rcases writeCsr_cases s c v with ⟨_, _, e⟩ | ⟨_, _, e⟩ | ⟨_, _, e⟩ | ⟨_, _, _, _, _, _, e⟩ <;> rw [e]
  · exact fits_empty
  · exact fits_init
  · exact hs
  · exact hs

theorem hostStore_work (s : State) (a : Nat) (b : Byte) : (s.hostStore a b).work = s.work := by
  rcases hostStore_cases s a b with ⟨_, _, e⟩ | ⟨_, e⟩ | ⟨_, _, _, _, e⟩ <;> rw [e] <;> rfl

/-- What the host does leaves the working state, empties it or re-initialises it. -/
theorem fits_hostTurn {s : State} (hs : s.work.Fits) : s.hostTurn.work.Fits := by
  rcases hostTurn_cases s with e | ⟨es, ⟨c, e⟩ | e | ⟨c, v, e⟩ | ⟨a, b, _, e⟩ | ⟨a, e⟩ | e | e | e⟩ <;> rw [e]
  · exact hs
  · exact hs
  · exact hs
  · exact fits_writeCsr (s := { s with inputs := es }) c v hs
  · rw [hostStore_work]; exact hs
  · exact hs
  · exact hs
  · exact hs
  · exact fits_empty

/-- Settles O18: a step by how the command ends or the host acts, the passes of the Huffman units by their measures. -/
theorem workingStateStaysBounded : Obligations.WorkingStateStaysBounded := by
  refine ⟨fits_empty, fun s s' hs h => ?_, fun m hm => ⟨fun k => ?_, fun root hroot => ⟨?_, ?_, fun k => ?_⟩⟩⟩
  · have hturn : ({ s with schedule := s.schedule.tail } : State).work.Fits := hs
    rcases step_ends s with ⟨r, t, _, e, ⟨i, hend⟩ | hend⟩ | e <;> rw [e] at h <;> cases h
    · exact fits_of_commandEnd hturn (fun _ => fits_of_returns) hend
    · exact fits_of_commandEnd hturn (fun _ hb => hb.elim) hend
    · exact fits_hostTurn (by unfold State.takeTurn; split <;> exact hs)
  · exact (length_mergeLoop_le k m).trans ((freqModel_wf_iff m).mp hm).1
  · exact store_length_le hm hroot
  · exact assign_stack root
  · exact assigner_sizes_of_bounded (leaves_le_alphabet hm hroot) (assigner_bounded_run k (assigner_bounded_start root))

end Sys2Proof.Machine
end

section
/-! # Proofs about memory: who may change it, and where a block's bytes lie (spec/20_memory.md) -/

namespace Sys2Proof.Machine

/-! ## Between commands (R64, R224) -/

/-- While no command runs, a step is the host's next action. -/
theorem step_idle {s : State} (hr : s.running = none) : step s = .next s.hostTurn := by
  have hm : s.coreMoves = false := by simp [State.coreMoves, hr]
  rw [step_of_hostMoves hm, takeTurn_idle hr]

/-- While no command runs, a register write leaves memory: even its reset abandons no window. -/
theorem writeCsr_mem_idle {s : State} (c : Csr) (v : Word) (hr : s.running = none) :
    (s.writeCsr c v).mem = s.mem := by
  rcases writeCsr_cases s c v with ⟨_, _, e⟩ | ⟨_, _, e⟩ | ⟨_, _, e⟩ | ⟨_, _, _, _, _, _, e⟩ <;> rw [e]
  · exact resetCore_mem_idle hr
  · rfl
  · rfl

/-- While no command runs, the host changes memory by a store only. -/
theorem hostTurn_mem_idle {s : State} (hr : s.running = none) (hstore : ∀ a b es, s.inputs ≠ .memWrite a b :: es) :
    s.hostTurn.mem = s.mem := by
  rcases hostTurn_cases s with e | ⟨es, ⟨c, e⟩ | e | ⟨c, v, e⟩ | ⟨a, b, hi, _⟩ | ⟨a, e⟩ | e | e | e⟩
  · rw [e]
  · rw [e]; rfl
  · rw [e]; rfl
  · rw [e]; exact writeCsr_mem_idle (s := { s with inputs := es }) c v hr
  · exact absurd hi (hstore a b es)
  · rw [e]; rfl
  · rw [e]; rfl
  · rw [e]; rfl
  · rw [e]; exact resetCore_mem_idle (s := { s with inputs := es }) hr

/-- Settles O5: a step of an idle core is the host's action, and only a store among those changes memory. -/
theorem idleCoreLeavesMemoryAlone : Obligations.IdleCoreLeavesMemoryAlone := by
  intro s hr
  rw [step_idle hr]
  exact ⟨fun hi => by rw [hostTurn_nil hi], _, rfl, hostTurn_mem_idle hr⟩

/-! ## The register port's accesses (R59) -/

/-- The word at slot `k` of the window lies at offset 4·k. -/
theorem offset_slot (base : Word) {k : Nat} (hk : k < 64) :
    PortAccess.offset base ⟨base + BitVec.ofNat 32 (4 * k), 4⟩ = 4 * k := by
  simp only [PortAccess.offset, BitVec.add_comm base, BitVec.add_sub_cancel, BitVec.toNat_ofNat]
  omega

/-- The port answers exactly the aligned words of its window. -/
theorem portAccess_wf_iff (base : Word) (a : PortAccess) :
    a.wf base = true ↔ a.bytes = 4 ∧ a.offset base % 4 = 0 ∧ a.offset base < 256 := by
  rw [PortAccess.wf, Bool.and_eq_true, Bool.and_eq_true, beq_iff_eq, beq_iff_eq, decide_eq_true_iff, and_assoc,
    Config.regBytes]

theorem wf_slot (base : Word) {k : Nat} (hk : k < 64) :
    PortAccess.wf base ⟨base + BitVec.ofNat 32 (4 * k), 4⟩ = true := by
  rw [portAccess_wf_iff, offset_slot base hk]
  exact ⟨rfl, Nat.mul_mod_right 4 k, by omega⟩

/-- Settles O9: a slot's access is answered at its offset, and any other is refused. -/
theorem portAcceptsOnlyAlignedWords : Obligations.PortAcceptsOnlyAlignedWords := by
  refine ⟨fun s k v hk => ?_, fun s a v ha => ?_⟩
  · rw [State.portRead, State.portWrite, if_pos (wf_slot _ hk), if_pos (wf_slot _ hk), offset_slot _ hk]
    exact ⟨rfl, rfl⟩
  · have hwf : ¬ a.wf s.platform.regBase = true := by
      rw [portAccess_wf_iff, PortAccess.offset]
      omega
    rw [State.portRead, State.portWrite, if_neg hwf, if_neg hwf]
    exact ⟨rfl, rfl⟩

/-! ## The window's frame (R51, R57) -/

/-- Freeing a window changes no byte outside it, cut at 2^32 or not. -/
theorem scrubWindow_read_outside (s : State) {l : Latch} {a : Nat}
    (h : ¬ (l.da.toNat ≤ a ∧ a < l.da.toNat + l.dc.toNat)) : (s.scrubWindow l).mem.read a = s.mem.read a := by
  have hsize : l.windowSize ≤ l.dc.toNat := Nat.min_le_left _ _
  refine Memory.read_writeBytes_outside _ _ _ _ ?_
  rw [length_freeBytes]
  omega

/-- A result that fits the window is stored inside it. -/
theorem storeResult_read_outside (s : State) {l : Latch} {out : List Byte} {a : Nat}
    (hlen : out.length ≤ l.dc.toNat) (h : ¬ (l.da.toNat ≤ a ∧ a < l.da.toNat + l.dc.toNat)) :
    (s.storeResult l out).mem.read a = s.mem.read a :=
  Memory.read_writeBytes_outside _ _ _ _ (by omega)

/-- However a command ends, the bytes outside its window are as before. -/
theorem commandEnd_read_outside {s s' : State} {r : Running} {returns : BodyOut → Prop} {a : Nat}
    (hend : CommandEnd s r returns s') (h : ¬ (r.latch.da.toNat ≤ a ∧ a < r.latch.da.toNat + r.latch.dc.toNat)) :
    s'.mem.read a = s.mem.read a := by
  cases hend with
  | stalled n => rfl
  | refused code _ => rfl
  | failed n code _ => exact scrubWindow_read_outside (s.bump n) h
  | unspecified => exact scrubWindow_read_outside s h
  | succeeded n b _ hlen => exact storeResult_read_outside (s.bump n) hlen h

/-- Settles O29: each way a command can end keeps to the window. -/
theorem noByteOutsideTheWindowChanges : Obligations.NoByteOutsideTheWindowChanges := by
  intro i s s' r a hr h ha
  obtain ⟨q, hq, hend⟩ := exec_ends h
  obtain rfl : r = q := Option.some.inj (hr.symm.trans hq)
  exact commandEnd_read_outside hend ha

/-! ## A success (R56, R213) -/

/-- The checks before DMA end a command with an error code. -/
theorem preCheck_ne_noError {i : Instr} {l : Latch} {code : ErrCode} (h : preCheck i l = some code) :
    code ≠ .noError := by
  rcases preCheck_cases i l with e | e | e <;> rw [e] at h <;> cases h <;> decide

/-- An error of a body has an error code. -/
theorem bodyOf_ne_noError {i : Instr} {src : List Byte} {dc : Nat} {code : ErrCode}
    (h : bodyOf i src dc = .error code) : code ≠ .noError := by
  rcases (bodyOf_error h).2 with rfl | rfl | rfl <;> decide

/-- An undisturbed command that has completed with code 0 has delivered its body's result. -/
theorem exec_success {i : Instr} {s s' : State} {r : Running} (hr : s.running = some r) (hu : s.unstable r = false)
    (h : exec i s = .next s') (hdone : s'.running = none) (hcode : s'.errCode = .noError) :
    ∃ b, bodyOf i (s.source r.latch) r.latch.dc.toNat = .ok b ∧ s.Takes r b.out.length ∧
      s' = s.success r b.out b.syms b.work := by
  obtain ⟨hhazard, hsteady⟩ := Bool.or_eq_false_iff.mp hu
  rw [exec_running i hr] at h
  obtain rfl : s.frame i r (bodyOf i) = s' := by injection h
  rcases frame_cases s i r (bodyOf i) with ⟨code, hp, e⟩ | ⟨_, _, e⟩ | ⟨_, _, hh, _⟩ | ⟨_, _, _, e⟩ |
    ⟨_, _, _, hs, _⟩ | ⟨_, _, _, e⟩
  · rw [e, State.endBeforeDma, if_neg (by simp [hhazard])] at hcode
    exact absurd hcode (preCheck_ne_noError hp)
  · rw [e] at hdone; cases hdone
  · rw [hhazard] at hh; cases hh
  · rw [e] at hcode; cases hcode
  · rw [hsteady] at hs; cases hs
  · rcases finish_cases s r (bodyOf i (s.source r.latch) r.latch.dc.toNat) with ⟨b, hb, ht, e'⟩ | ⟨code, hc, e'⟩ |
      ⟨_, e'⟩
    · exact ⟨b, hb, ht, e.trans e'⟩
    · rw [e, e'] at hcode
      rcases hc with hc | rfl | rfl
      · exact absurd hcode (bodyOf_ne_noError hc)
      · cases hcode
      · cases hcode
    · rw [e, e'] at hdone; cases hdone

/-- STATUS after a success: DONE, and EMPTY when there were no symbols (R213). -/
theorem statusWord_success (s : State) (r : Running) (out : List Byte) (syms : Nat) (w : Work) :
    (s.success r out syms w).statusWord = if syms = 0 then 0x0000000A#32 else 0x00000002#32 := by
  by_cases h : syms = 0 <;> simp [State.success, State.statusWord, State.busy, State.err, h, flagAt, ErrCode.toBits]

/-- Settles O26: the success is the body's delivered result, whose bytes read back. -/
theorem successStoresExactlyTheResult : Obligations.SuccessStoresExactlyTheResult := by
  intro i s s' r hr hu h hdone hcode
  obtain ⟨⟨out, syms, w⟩, hb, ⟨hlen, _⟩, rfl⟩ := exec_success hr hu h hdone hcode
  exact ⟨out, syms, w, hb, hlen, Memory.readBytes_writeBytes _ _ _,
    fun a ha => Memory.read_writeBytes_outside _ _ _ _ ha, rfl, rfl, statusWord_success s r out syms w⟩

/-! ## Completions whose outcome may be any (R66, R235, U5) -/

section
variable {s t : State} {r : Running}

/-- A completion with an error code, from a state that differs in the window only. -/
theorem completeErr_endsSomehow {code : ErrCode} (hr : t.running = some r) (hcode : code ≠ .unsupportedAlphabet)
    (herr : code ≠ .noError)
    (hmem : ∀ a, ¬ (r.latch.da.toNat ≤ a ∧ a < r.latch.da.toNat + r.latch.dc.toNat) → t.mem.read a = s.mem.read a) :
    s.EndsSomehow r (t.completeErr code) :=
  ⟨rfl, rfl, by simp [State.completing, hr], hcode, by simp [herr], hmem⟩

/-- A completion with an unspecified outcome, which leaves the window free. -/
theorem completeUnspecified_endsSomehow (hr : s.running = some r) :
    s.EndsSomehow r (s.scrubWindow r.latch).completeUnspecified :=
  ⟨rfl, rfl, by simp [State.completing, hr], reportableCodes_ne_codeThree _, by simp,
    fun _ => scrubWindow_read_outside s⟩

/-- An error after DMA may have begun leaves the window free. -/
theorem endWithError_endsSomehow {code : ErrCode} (n : Nat) (hr : s.running = some r)
    (hcode : code ≠ .unsupportedAlphabet) (herr : code ≠ .noError) :
    s.EndsSomehow r ((s.bump n).endWithError r code) :=
  completeErr_endsSomehow hr hcode herr fun _ => scrubWindow_read_outside (s.bump n)

/-- A success whose symbol count fits its register. -/
theorem success_endsSomehow {out : List Byte} {syms : Nat} {w : Work} (n : Nat) (hr : s.running = some r)
    (hsyms : syms < 2 ^ 32) (hlen : out.length ≤ r.latch.dc.toNat) :
    s.EndsSomehow r ((s.bump n).success r out syms w) := by
  have hzero : BitVec.ofNat 32 syms = 0#32 ↔ syms = 0 := by
    rw [← BitVec.toNat_inj, BitVec.toNat_ofNat, Nat.mod_eq_of_lt hsyms]; rfl
  refine ⟨rfl, rfl, ?_, nofun, ?_, fun _ => storeResult_read_outside (s.bump n) hlen⟩
  · simp [State.success, State.completing, hr]
  · simp [State.success, hzero]

/-- A command that ends before DMA completes. -/
theorem endBeforeDma_endsSomehow {code : ErrCode} (hr : s.running = some r) (hcode : code ≠ .unsupportedAlphabet)
    (herr : code ≠ .noError) : s.EndsSomehow r (s.endBeforeDma r code) := by
  unfold State.endBeforeDma
  split
  · exact completeUnspecified_endsSomehow hr
  · exact completeErr_endsSomehow hr hcode herr fun _ _ => rfl

end

/-- Accesses to the first bytes of an answered region are answered. -/
theorem answers_never_mono {p : Platform} {dir : DmaDir} {base size n : Nat} (hn : n ≤ size)
    (h : p.answers dir ⟨base, size⟩ .never = false) : p.answers dir ⟨base, n⟩ .never = false := by
  by_contra hp
  obtain ⟨a, hlow, hhigh, ha⟩ := address_of_answers (eq_true_of_ne_false hp)
  rw [answers_of_address (r := ⟨base, size⟩) hlow (Nat.lt_of_lt_of_le hhigh (Nat.add_le_add_left hn base)) ha] at h
  cases h

/-- Accesses that are all answered do not stall. -/
theorem dma_ne_stall {s : State} {dir : DmaDir} {reg : Region} (h : s.platform.answers dir reg .never = false) :
    s.dma dir reg ≠ .stall := by
  rw [dma_answered h]
  split <;> decide

/-- The symbol count of a free result fits its register. -/
theorem symsOf_freeLength_lt (s : State) (i : Instr) (l : Latch) : symsOf i l (s.freeLength i) < 2 ^ 32 := by
  have hshort : shortestOut i < 2 ^ 32 := by cases i <;> decide
  unfold symsOf
  split
  · exact l.sl.isLt
  · exact Nat.max_lt.mpr ⟨hshort, (s.free 1).isLt⟩

/-- A free result errors only with the codes of its body. -/
theorem bodyErrors_ne_noError {i : Instr} {code : ErrCode} (h : code ∈ bodyErrors i) : code ≠ .noError := by
  rintro rfl
  revert h
  cases i <;> decide

/-- A result whose writes are answered is stored, or ends with an error. -/
theorem deliver_endsSomehow {s : State} {r : Running} {b : BodyOut} (n : Nat) (hr : s.running = some r)
    (hsyms : b.syms < 2 ^ 32) (hwrite : s.platform.answers .write r.latch.dst .never = false) :
    s.EndsSomehow r ((s.bump n).deliver r b) := by
  rcases deliver_cases (s.bump n) r b with ⟨⟨hlen, _⟩, e⟩ | ⟨_, e⟩ | ⟨_, _, e⟩ | ⟨hlen, hd, _⟩
  · exact e ▸ success_endsSomehow n hr hsyms hlen
  · exact e ▸ endWithError_endsSomehow n hr (by decide) (by decide)
  · exact e ▸ endWithError_endsSomehow n hr (by decide) (by decide)
  · exact absurd hd (dma_ne_stall (answers_never_mono hlen hwrite))

/-- The free result of an answered command is delivered, or ends with an error. -/
theorem finish_freeResult_endsSomehow {s : State} {r : Running} (i : Instr) (n : Nat) (hr : s.running = some r)
    (hwrite : s.platform.answers .write r.latch.dst .never = false) :
    s.EndsSomehow r ((s.bump n).finish r (s.freeResult i r)) := by
  rcases freeResult_cases s i r with ⟨code, hmem, e⟩ | e <;> rw [e]
  · exact endWithError_endsSomehow n hr (bodyErrors_ne_codeThree hmem) (bodyErrors_ne_noError hmem)
  · exact deliver_endsSomehow n hr (symsOf_freeLength_lt s i r.latch) hwrite

/-- A disturbed, stale or device command whose accesses are answered completes. -/
theorem frame_endsSomehow {s : State} {r : Running} (i : Instr) (hr : s.running = some r)
    (hu : s.unstable r = true) (hread : s.platform.answers .read r.latch.src .never = false)
    (hwrite : s.platform.answers .write r.latch.dst .never = false) :
    s.EndsSomehow r (s.frame i r (bodyOf i)) := by
  rcases frame_cases s i r (bodyOf i) with ⟨code, hp, e⟩ | ⟨_, hd, _⟩ | ⟨_, _, _, e⟩ | ⟨_, _, _, e⟩ |
    ⟨_, _, _, _, e⟩ | ⟨_, _, hs, _⟩
  · exact e ▸ endBeforeDma_endsSomehow hr (preCheck_ne_codeThree hp) (preCheck_ne_noError hp)
  · exact absurd hd (dma_ne_stall hread)
  · rcases endUnspecified_cases s r with e' | ⟨hnever, _⟩
    · exact (e.trans e') ▸ completeUnspecified_endsSomehow hr
    · rw [hwrite] at hnever; cases hnever
  · exact e ▸ endWithError_endsSomehow 0 hr (by decide) (by decide)
  · exact e ▸ finish_freeResult_endsSomehow i _ hr hwrite
  · rw [hu] at hs; cases hs

/-! ## Stores of the host, case by case (R66, R235; log 10) -/

/-- The addresses whose store is a hazard: those of the two regions. -/
theorem touches_iff (l : Latch) (a : Nat) :
    l.touches a = true ↔ (l.sa.toNat ≤ a ∧ a < l.sa.toNat + l.sl.toNat) ∨
      (l.da.toNat ≤ a ∧ a < l.da.toNat + l.dc.toNat) := by
  rw [Latch.touches, Bool.or_eq_true, contains_iff, contains_iff]
  rfl

theorem touches_eq_false {l : Latch} {a : Nat} (hsrc : ¬ (l.sa.toNat ≤ a ∧ a < l.sa.toNat + l.sl.toNat))
    (hdst : ¬ (l.da.toNat ≤ a ∧ a < l.da.toNat + l.dc.toNat)) : l.touches a = false :=
  Bool.eq_false_iff.mpr fun h => ((touches_iff l a).mp h).elim hsrc hdst

theorem noteWrite_touching {r : Running} {a : Nat} (h : r.latch.touches a = true) :
    r.noteWrite a = { r with hazard := true } := by simp [Running.noteWrite, h]

theorem noteWrite_elsewhere {r : Running} {a : Nat} (h : r.latch.touches a = false) : r.noteWrite a = r := by
  simp [Running.noteWrite, h]

section
variable {s : State} (a : Nat) (b : Byte)

theorem putByte_read (c : Nat) : (s.putByte a b).mem.read c = if c = a then b else s.mem.read c :=
  Memory.read_write _ _ _ _

theorem hostStore_busy {r : Running} (hr : s.running = some r) :
    s.hostStore a b = { s.putByte a b with running := some (r.noteWrite a) } := by simp [State.hostStore, hr]

theorem hostStore_seen (hr : s.running = none) (hu : s.unseen = none) : s.hostStore a b = s.putByte a b := by
  simp [State.hostStore, hr, hu]

theorem hostStore_unseen_elsewhere {l : Latch} (hr : s.running = none) (hu : s.unseen = some l)
    (ht : l.touches a = false) : s.hostStore a b = s.putByte a b := by
  simp [State.hostStore, hr, hu, ht]

theorem hostStore_unseen_touching {l : Latch} (hr : s.running = none) (hu : s.unseen = some l)
    (ht : l.touches a = true) : s.hostStore a b = ((s.putByte a b).scrubWindow l).unspecifiedOutcome := by
  simp [State.hostStore, hr, hu, ht]

end

/-- Settles O31: the disturbed command by the frame's cases, the stores by the state of the core. -/
theorem disturbedCommandStillCompletes : Obligations.DisturbedCommandStillCompletes := by
  refine ⟨fun i s r hr hu hread hwrite => ?_, fun s r hr hh hop => ?_, fun s r a b hr ht => ?_,
    fun s r a b hr hsrc hdst => ?_, fun s l a b hr hl hsrc hdst => ?_, fun s l a b hr hl => ?_, fun s a b hr hl => ?_⟩
  · exact ⟨_, exec_running i hr, frame_endsSomehow i hr hu hread hwrite⟩
  · exact ⟨_, coreStep_error hr (decodeOp_reserved _ hop), endBeforeDma_endsSomehow hr (by decide) (by decide)⟩
  · rw [hostStore_busy a b hr, noteWrite_touching ((touches_iff _ a).mpr ht)]
    exact ⟨rfl, putByte_read a b⟩
  · rw [hostStore_busy a b hr, noteWrite_elsewhere (touches_eq_false hsrc hdst)]
    exact ⟨hr.symm, putByte_read a b⟩
  · rw [hostStore_unseen_elsewhere a b hr hl (touches_eq_false hsrc hdst)]
    exact ⟨rfl, rfl, rfl, rfl, putByte_read a b⟩
  · cases ht : l.touches a with
    | false =>
      rw [hostStore_unseen_elsewhere a b hr hl ht]
      exact ⟨hr, rfl, id, fun c _ => putByte_read a b c⟩
    | true =>
      rw [hostStore_unseen_touching a b hr hl ht]
      exact ⟨hr, rfl, fun _ => reportableCodes_ne_codeThree _,
        fun c hc => (scrubWindow_read_outside (s.putByte a b) hc).trans (putByte_read a b c)⟩
  · rw [hostStore_seen a b hr hl]
    exact ⟨rfl, rfl, rfl, putByte_read a b⟩

/-! ## Where a block's integer fields lie (R58, R74 to R76) -/

/-- Byte `i` of a big-endian field has weight 256^(n − 1 − i). -/
theorem getD_bytesBE (v : Nat) {n i : Nat} (h : i < n) :
    ((bytesBE v n).getD i 0#8).toNat = v / 256 ^ (n - 1 - i) % 256 := by
  induction n generalizing i with
  | zero => cases h
  | succ n ih =>
    cases i with
    | zero => simp [bytesBE]
    | succ i =>
      rw [bytesBE, List.getD_cons_succ, ih (Nat.lt_of_succ_lt_succ h)]
      congr 3
      omega

/-- Record `k` of the serialized records begins at byte 5·k. -/
theorem getD_records (m : FreqModel) {k j : Nat} (hk : k < m.length) (hj : j < 5) :
    (m.flatMap serializeRecord).getD (5 * k + j) 0#8 = (serializeRecord m[k]).getD j 0#8 := by
  induction m generalizing k with
  | nil => cases hk
  | cons p m ih =>
    have hp : (serializeRecord p).length = 5 := length_serializeRecord p
    rw [List.flatMap_cons]
    cases k with
    | zero => rw [List.getD_append _ _ _ _ (by omega), Nat.mul_zero, Nat.zero_add, List.getElem_cons_zero]
    | succ k =>
      rw [List.getD_append_right _ _ _ _ (by omega), hp, show 5 * (k + 1) + j - 5 = 5 * k + j by omega]
      exact ih (Nat.lt_of_succ_lt_succ hk)

/-- The record count stands at the head of the serialized model. -/
theorem getD_serializeModel_count (m : FreqModel) {j : Nat} (hj : j < 2) :
    (serializeModel m).getD j 0#8 = (bytesBE m.length 2).getD j 0#8 :=
  List.getD_append _ _ _ _ (by rwa [length_bytesBE])

/-- Record `k` of a serialized model begins at byte 2 + 5·k. -/
theorem getD_serializeModel_record (m : FreqModel) {k j : Nat} (hk : k < m.length) (hj : j < 5) :
    (serializeModel m).getD (2 + 5 * k + j) 0#8 = (serializeRecord m[k]).getD j 0#8 := by
  rw [serializeModel, List.getD_append_right _ _ _ _ (by rw [length_bytesBE]; omega), length_bytesBE,
    ← getD_records m hk hj]
  congr 1
  omega

/-- Byte `i` of the frequency of record `k` stands at byte 3 + 5·k + i. -/
theorem getD_serializeModel_freq (m : FreqModel) {k i : Nat} (hk : k < m.length) (hi : i < 4) :
    ((serializeModel m).getD (3 + i + 5 * k) 0#8).toNat = m[k].2 / 256 ^ (3 - i) % 256 := by
  rw [show 3 + i + 5 * k = 2 + 5 * k + (i + 1) by omega, getD_serializeModel_record m hk (by omega), serializeRecord,
    List.getD_cons_succ, getD_bytesBE _ hi]

/-- A block of AENC begins with the serialized model and SCNT (R76). -/
theorem bodyAenc_out {src : List Byte} {dc : Nat} {b : BodyOut} (h : bodyAenc src dc = .ok b) :
    ∃ rest, b.out = serializeModel (buildModel src) ++ (bytesBE src.length 4 ++ rest) := by
  unfold bodyAenc at h
  simp only at h
  split at h <;> cases h
  · exact ⟨_, List.append_assoc _ _ _⟩
  · exact ⟨_, List.append_assoc _ _ _⟩

/-- Byte `i` of SCNT stands at byte 2 + 5·n + i of an arithmetic block. -/
theorem getD_bodyAenc_scnt {src : List Byte} {dc : Nat} {b : BodyOut} (h : bodyAenc src dc = .ok b) {i : Nat}
    (hi : i < 4) :
    (b.out.getD (2 + 5 * (buildModel src).length + i) 0#8).toNat = src.length / 256 ^ (3 - i) % 256 := by
  obtain ⟨rest, hout⟩ := bodyAenc_out h
  rw [hout, List.getD_append_right _ _ _ _ (by rw [length_serializeModel]; omega), length_serializeModel,
    Nat.add_sub_cancel_left, List.getD_append _ _ _ _ (by rwa [length_bytesBE]), getD_bytesBE _ hi]

/-- Settles O35: the fields' bytes by their offsets; the first byte of a field takes no modulus, as its value fits. -/
theorem blockFieldsAreBigEndian : Obligations.BlockFieldsAreBigEndian := by
  refine ⟨fun m hm => ?_, fun src dc b hlen h => ?_⟩
  · obtain ⟨hcount, _, _, htotal⟩ := (freqModel_wf_iff m).mp hm
    refine ⟨?_, ?_, fun k hk => ?_⟩
    · rw [getD_serializeModel_count m (by decide), getD_bytesBE _ (by decide)]
      exact Nat.mod_eq_of_lt (by omega)
    · rw [getD_serializeModel_count m (by decide), getD_bytesBE _ (by decide)]
      simp
    · have hfreq : m[k].2 ≤ 0x3FFFFFFF := (freq_le_total (List.getElem_mem hk)).trans htotal
      refine ⟨getD_serializeModel_record m hk (j := 0) (by decide), ?_,
        getD_serializeModel_freq m hk (i := 1) (by decide), getD_serializeModel_freq m hk (i := 2) (by decide), ?_⟩
      · exact (getD_serializeModel_freq m hk (i := 0) (by decide)).trans (Nat.mod_eq_of_lt (by omega))
      · simpa using getD_serializeModel_freq m hk (i := 3) (by decide)
  · refine ⟨?_, getD_bodyAenc_scnt h (i := 1) (by decide), getD_bodyAenc_scnt h (i := 2) (by decide), ?_⟩
    · exact (getD_bodyAenc_scnt h (i := 0) (by decide)).trans (Nat.mod_eq_of_lt (by omega))
    · simpa using getD_bodyAenc_scnt h (i := 3) (by decide)

end Sys2Proof.Machine
end

section
/-! # Encodings: the opcode map, the padding marker and the blocks of an empty input -/

namespace Sys2Proof

/-! ## The opcode map (R70 to R72, R85) -/

/-- A word with a command's opcode in its field OP decodes to the command, whatever its reserved bits are (R70, R71). -/
theorem decode_of_opField {w : Word} {i : Instr} (h : opField w = i.opcode) : decode w = .ok i := by
  rw [decode_eq_decodeOp, h, decodeOp_opcode]

/-- A word with a reserved opcode in its field OP is refused by it (R72). -/
theorem decode_of_opField_reserved {w : Word} (h : opField w = 0#4 ∨ 7#4 ≤ opField w) :
    decode w = .error (.reservedOpcode (opField w)) := by
  rw [decode_eq_decodeOp, decodeOp_reserved _ h]

/-- A CMD word put together from an opcode has the reserved bits 0 (R70). -/
theorem cmdWordCanonical_setWidth : ∀ op : BitVec 4, cmdWordCanonical (op.setWidth 32) = true := by decide

/-- Settles O2: the field OP is a command's opcode or a reserved one. -/
theorem opcodeMapDecodesEveryWord : Obligations.OpcodeMapDecodesEveryWord := fun _ =>
  ⟨decode_of_opField (i := .freq), decode_of_opField (i := .henc), decode_of_opField (i := .hdec),
    decode_of_opField (i := .hcodes), decode_of_opField (i := .aenc), decode_of_opField (i := .adec),
    decode_of_opField_reserved⟩

/-- Settles O1: the field OP of a command's word is the command's opcode; the words written out are decoded by theirs. -/
theorem commandWordsDecode : Obligations.CommandWordsDecode :=
  ⟨fun i => ⟨cmdWordCanonical_setWidth i.opcode, decode_of_opField (opField_setWidth i.opcode)⟩,
    decode_of_opField (by decide), decode_of_opField (by decide), decode_of_opField (by decide),
    decode_of_opField (by decide), decode_of_opField (by decide), decode_of_opField (by decide),
    decode_of_opField_reserved (.inl (by decide)), decode_of_opField_reserved (.inr (by decide))⟩

end Sys2Proof

namespace Sys2Proof.Machine

/-! ## The padding marker (R78, R181) -/

/-- PAD is at most 7. -/
theorem padOf_le (k : Nat) : padOf k ≤ 7 := Nat.le_of_lt_succ (Nat.mod_lt _ (by decide))

/-- PAD is the number of bits the output bytes have beyond the bits written. -/
theorem length_packBits_mul_eight (bits : Bits) : (packBits bits).length * 8 = bits.length + padOf bits.length := by
  rw [length_packBits, padOf]
  omega

/-- The last output byte is the packed byte of the last eight stream indices. -/
theorem getLast?_packBits {bits : Bits} {b : Byte} (h : (packBits bits).getLast? = some b) :
    b = packedByte bits ((packBits bits).length - 1) := by
  rw [List.getLast?_eq_getElem?] at h
  obtain ⟨_, rfl⟩ := List.getElem?_eq_some_iff.mp h
  simp [packBits]

/-- Bit `j` of an output byte is 0 when its stream index lies at or past the end of the bits written (R181). -/
theorem getLsbD_packedByte_past {bits : Bits} {i j : Nat} (hj : j ≤ 7) (h : bits.length ≤ 8 * i + (7 - j)) :
    (packedByte bits i).getLsbD j = false := by
  rw [show j = 7 - (7 - j) by omega, getLsbD_packedByte _ _ _ (by omega)]
  exact List.getD_eq_default _ _ h

/-- The low PAD bits of the last output byte are 0: their stream indices lie past the end (R78). -/
theorem getLsbD_last_packBits {bits : Bits} {b : Byte} {j : Nat} (hlast : (packBits bits).getLast? = some b)
    (hj : j < padOf bits.length) : b.getLsbD j = false := by
  have hlen := length_packBits_mul_eight bits
  have hpad := padOf_le bits.length
  rw [getLast?_packBits hlast]
  exact getLsbD_packedByte_past (by omega) (by omega)

/-- Settles O39: the flushed bytes and PAD are `packBits` and `padOf` of the bits written. -/
theorem paddingMarker : Obligations.PaddingMarker := fun bits =>
  ⟨rfl, padOf_le bits.length, length_packBits bits, length_packBits_mul_eight bits, fun _ _ => getLsbD_last_packBits⟩

/-! ## Empty input (R79, R210) -/

/-- An empty input has the empty model. -/
@[simp] theorem buildModel_nil : buildModel [] = [] := by simp [buildModel_eq]

/-- The empty model is a record count of 0. -/
@[simp] theorem serializeModel_nil : serializeModel [] = [0#8, 0#8] := rfl

/-- The empty Huffman block is a header without records and an empty payload. -/
theorem parseHeader_emptyHuffman : parseHeader [0#8, 0#8, 0#8] false = .ok ⟨[], 0, [], 0⟩ := by
  simp [parseHeader, parseRecords, natBE_cons, FreqModel.total]

/-- The empty arithmetic block is the same with a symbol count of 0 (R76). -/
theorem parseHeader_emptyArithmetic :
    parseHeader [0#8, 0#8, 0#8, 0#8, 0#8, 0#8, 0#8] true = .ok ⟨[], 0, [], 0⟩ := by
  simp [parseHeader, parseRecords, natBE_cons, FreqModel.total]

/-- HDEC decodes a block of the empty model to nothing, whatever the window's capacity. -/
theorem bodyHdec_emptyModel {src payload : List Byte} {n : Nat} (dc : Nat)
    (h : parseHeader src false = .ok ⟨[], 0, payload, n⟩) : bodyHdec src dc = .ok ⟨[], 0, modelWork []⟩ := by
  simp only [bodyHdec, h, Nat.not_lt_zero, if_false]
  rfl

/-- ADEC decodes a block of the empty model to nothing, whatever the window's capacity. -/
theorem bodyAdec_emptyModel {src payload : List Byte} {n : Nat} (dc : Nat)
    (h : parseHeader src true = .ok ⟨[], 0, payload, n⟩) : bodyAdec src dc = .ok ⟨[], 0, modelWork []⟩ := by
  simp only [bodyAdec, h, Nat.not_lt_zero, if_false]

/-- An admitted command whose body returns a result that the window takes is a success. -/
theorem exec_takes {s : State} {r : Running} {i : Instr} {b : BodyOut} (ha : s.Admits i r)
    (hb : bodyOf i (s.source r.latch) r.latch.dc.toNat = .ok b) (ht : s.Takes r b.out.length) :
    exec i s = .next (s.success r b.out b.syms b.work) := by
  rw [exec_bodyOk ha hb, deliver_takes ht]

/-- What each command makes of an empty input: its source bytes and its result (R79). -/
def emptyBlocks : List (Instr × List Byte × List Byte) :=
  [(.freq, [], [0#8, 0#8]), (.hcodes, [], [0#8, 0#8]), (.henc, [], [0#8, 0#8, 0#8]),
    (.aenc, [], [0#8, 0#8, 0#8, 0#8, 0#8, 0#8, 0#8]), (.hdec, [0#8, 0#8, 0#8], []),
    (.adec, [0#8, 0#8, 0#8, 0#8, 0#8, 0#8, 0#8], [])]

/-- On an empty input a body returns the empty block, or nothing from it, and leaves the empty model. -/
theorem bodyOf_emptyBlocks {i : Instr} {src out : List Byte} (dc : Nat) (h : (i, src, out) ∈ emptyBlocks) :
    bodyOf i src dc = .ok ⟨out, 0, modelWork []⟩ := by
  simp only [emptyBlocks, List.mem_cons, List.not_mem_nil, or_false, Prod.mk.injEq] at h
  rcases h with ⟨rfl, rfl, rfl⟩ | ⟨rfl, rfl, rfl⟩ | ⟨rfl, rfl, rfl⟩ | ⟨rfl, rfl, rfl⟩ | ⟨rfl, rfl, rfl⟩ |
    ⟨rfl, rfl, rfl⟩
  · simp [bodyOf, bodyFreq]
  · simp [bodyOf, bodyHcodes, bytesBE]
  · simp [bodyOf, bodyHenc]
  · simp [bodyOf, bodyAenc, bytesBE]
  · rw [bodyOf, bodyHdec_emptyModel dc parseHeader_emptyHuffman]
  · rw [bodyOf, bodyAdec_emptyModel dc parseHeader_emptyArithmetic]

/-- Settles O60: the body's result of an empty input is delivered, and 0 symbols set EMPTY. -/
theorem emptyInputIsASuccess : Obligations.EmptyInputIsASuccess := by
  intro i s r src out ha hsrc hmem ht
  have hbody : bodyOf i (s.source r.latch) r.latch.dc.toNat = .ok ⟨out, 0, modelWork []⟩ := by
    rw [hsrc]
    exact bodyOf_emptyBlocks _ hmem
  exact ⟨modelWork [], exec_takes ha hbody ht, statusWord_success s r out 0 _⟩

end Sys2Proof.Machine
end

section
/-! # Frequency models and headers: what BuildModel counts, what the header parser accepts, and that outcomes follow the
source -/

namespace Sys2Proof.Machine

/-! ## The header parser as its checks (R106) -/

/-- The header's size up to the padding marker: CNT, `n` records and, for ADEC, SCNT (R75, R76). -/
def headerSize (n : Nat) (ari : Bool) : Nat := 2 + 5 * n + (if ari then 4 else 0)

/-- A source with `n` records and padding marker `pad` passes the checks of R106, whose letters stand beside them, and
`h` is what the parser returns for it. -/
structure Header.ReadFrom (h : Header) (src : List Byte) (ari : Bool) (n pad : Nat) : Prop where
  count       : natBE (src.take 2) = n
  marker      : (src.getD (headerSize n ari) 0#8).toNat = pad
  hasCount    : 2 ≤ src.length                                                          -- (a)
  countFits   : n ≤ 256                                                                 -- (b)
  hasHeader   : headerSize n ari + 1 ≤ src.length                                       -- (c)
  records     : parseRecords n none (src.drop 2) = .ok h.model                          -- (d), (e)
  totalFits   : h.model.total ≤ 0x3FFFFFFF                                              -- (f)
  scnt        : ari = true → natBE ((src.drop (2 + 5 * n)).take 4) = h.model.total      -- (g)
  markerFits  : pad ≤ 7                                                                 -- (h)
  emptyMarker : h.payload = [] → pad = 0                                                -- (i)
  total       : h.total = h.model.total
  payload     : h.payload = src.drop (headerSize n ari + 1)
  nBits       : h.nBits = 8 * h.payload.length - pad

/-- The parser accepts exactly the sources that pass its checks. -/
theorem parseHeader_ok_iff {src : List Byte} {ari : Bool} {h : Header} :
    parseHeader src ari = .ok h ↔ ∃ n pad, h.ReadFrom src ari n pad := by
  have hsize : ∀ n, 2 + 5 * n + (if ari then 4 else 0) = headerSize n ari := fun _ => rfl
  unfold parseHeader Config.alphabet Config.maxLen
  simp only [hsize]
  constructor
  · intro hp
    repeat' split at hp
    all_goals cases hp
    rename_i ha hb hc _ m hm hf hg hh hi
    exact ⟨_, _, rfl, rfl, Nat.le_of_not_lt ha, Nat.le_of_not_lt hb, Nat.le_of_not_lt hc, hm, Nat.le_of_not_lt hf,
      by simpa using hg, Nat.le_of_not_lt hh, by simpa using hi, rfl, rfl, rfl⟩
  · rintro ⟨n, pad, rfl, rfl, ha, hb, hc, hm, hf, hg, hh, hi, ht, hpayload, hbits⟩
    obtain ⟨m, t, payload, nBits⟩ := h
    simp only at hm hf hg hi ht hpayload hbits
    subst ht hpayload hbits
    rw [if_neg (Nat.not_lt.mpr ha), if_neg (Nat.not_lt.mpr hb), if_neg (Nat.not_lt.mpr hc), hm]
    simp only
    rw [if_neg (Nat.not_lt.mpr hf), if_neg (by simpa using hg), if_neg (Nat.not_lt.mpr hh), if_neg (by simpa using hi)]

/-! ## Records (R74, R75) -/

/-- Two fields of one length that spell one number are the same bytes (R11). -/
theorem natBE_inj {as bs : List Byte} (hlen : as.length = bs.length) (h : natBE as = natBE bs) : as = bs := by
  induction as generalizing bs with
  | nil => exact (List.eq_nil_of_length_eq_zero hlen.symm).symm
  | cons a as ih =>
    obtain _ | ⟨b, bs⟩ := bs
    · cases hlen
    · have hlen' : as.length = bs.length := Nat.succ.inj hlen
      have has : natBE as < 256 ^ bs.length := hlen' ▸ natBE_lt as
      have hbs : natBE bs < 256 ^ bs.length := natBE_lt bs
      rw [natBE_cons, natBE_cons, hlen'] at h
      have htail : natBE as = natBE bs := by
        rw [← Nat.mul_add_mod_of_lt (a := b.toNat) hbs, ← h, Nat.mul_add_mod_of_lt has]
      rw [htail, Nat.add_right_cancel_iff, Nat.mul_left_inj (by positivity), BitVec.toNat_inj] at h
      rw [h, ih hlen' htail]

/-- A field of `n` bytes is the big-endian form of the number it spells (R11). -/
theorem bytesBE_eq_of_natBE {bs : List Byte} {v n : Nat} (h : natBE bs = v) (hlen : bs.length = n) : bytesBE v n = bs := by
  subst h hlen
  exact natBE_inj (length_bytesBE _ _) (natBE_bytesBE (natBE_lt bs))

/-- The record parser reads serialized records back, whatever follows them. -/
theorem parseRecords_serialize {m : FreqModel} {prev : Option Byte} (rest : List Byte) (hasc : m.Pairwise SymbolLt)
    (hfreq : ∀ p ∈ m, 1 ≤ p.2 ∧ p.2 < 2 ^ 32) (hprev : ∀ q ∈ prev, ∀ p ∈ m, q.toNat < p.1.toNat) :
    parseRecords m.length prev (m.flatMap serializeRecord ++ rest) = .ok m := by
  induction m generalizing prev with
  | nil => rfl
  | cons p m ih =>
    obtain ⟨s, f⟩ := p
    obtain ⟨hs, hasc⟩ := List.pairwise_cons.mp hasc
    obtain ⟨⟨hpos, hlt⟩, hfreq⟩ := List.forall_mem_cons.mp hfreq
    have hf : natBE (bytesBE f 4) = f := natBE_bytesBE hlt
    have hafter : prev.any (fun q => decide (s.toNat ≤ q.toNat)) = false := by
      cases prev with
      | none => rfl
      | some q => simpa using hprev q rfl (s, f) List.mem_cons_self
    have hrest := ih (prev := some s) hasc hfreq (fun q hq => Option.some.inj hq ▸ hs)
    obtain ⟨b3, b2, b1, b0, hbytes⟩ : ∃ b3 b2 b1 b0, bytesBE f 4 = [b3, b2, b1, b0] := ⟨_, _, _, _, rfl⟩
    rw [hbytes] at hf
    simp [serializeRecord, hbytes, parseRecords, hf, hafter, hrest, Nat.one_le_iff_ne_zero.mp hpos]

/-- What the record parser accepts begins with the records it returns, serialized. -/
theorem parseRecords_ok_eq {k : Nat} {prev : Option Byte} {bs : List Byte} {m : FreqModel}
    (h : parseRecords k prev bs = .ok m) : bs = m.flatMap serializeRecord ++ bs.drop (5 * k) := by
  fun_induction parseRecords k prev bs generalizing m with
  | case1 => cases h; rfl
  | case2 | case3 | case5 | case6 => cases h
  | case4 k prev s b3 b2 b1 b0 bs hfreq hprev m' hm' ih =>
    cases h
    have hfield : bytesBE (natBE [b3, b2, b1, b0]) 4 = [b3, b2, b1, b0] := bytesBE_eq_of_natBE rfl rfl
    rw [List.flatMap_cons, serializeRecord, hfield, List.append_assoc, Nat.mul_succ]
    exact congrArg ([s, b3, b2, b1, b0] ++ ·) (ih hm')

/-! ## The layout of a header (R75, R76) -/

/-- The field SCNT of an arithmetic block; a Huffman block has none. -/
def scntField (ari : Bool) (t : Nat) : List Byte := if ari then bytesBE t 4 else []

/-- A header's size is the length of the bytes before its padding marker. -/
theorem length_header (m : FreqModel) (ari : Bool) (t : Nat) :
    (serializeModel m ++ scntField ari t).length = headerSize m.length ari := by
  cases ari <;> simp [scntField, headerSize, length_serializeModel]

/-- A block that is laid out as a header passes the parser's checks. -/
theorem readFrom_layout {m : FreqModel} (ari : Bool) {pad : Nat} {payload : List Byte} (hm : FreqModel.wf m = true)
    (hpad : pad ≤ 7) (hempty : payload = [] → pad = 0) :
    (Header.mk m m.total payload (8 * payload.length - pad)).ReadFrom
      (serializeModel m ++ scntField ari m.total ++ BitVec.ofNat 8 pad :: payload) ari m.length pad := by
  obtain ⟨hcount, hasc, hpos, htotal⟩ := (freqModel_wf_iff m).mp hm
  have hsize := length_header m ari m.total
  have hfreq : ∀ p ∈ m, 1 ≤ p.2 ∧ p.2 < 2 ^ 32 := fun p hp =>
    ⟨hpos p hp, by have := freq_le_total hp; omega⟩
  exact {
    count := by
      rw [serializeModel, List.append_assoc, List.append_assoc, List.take_left' (length_bytesBE _ _)]
      exact natBE_bytesBE (by omega)
    marker := by
      rw [← hsize, List.getD_append_right _ _ _ _ (Nat.le_refl _), Nat.sub_self, List.getD_cons_zero,
        BitVec.toNat_ofNat]
      omega
    hasCount := by
      simp only [List.length_append, length_serializeModel]
      omega
    countFits := hcount
    hasHeader := by rw [← hsize]; simp
    records := by
      rw [serializeModel, List.append_assoc, List.append_assoc, List.drop_left' (length_bytesBE _ _)]
      exact parseRecords_serialize _ hasc hfreq nofun
    totalFits := htotal
    scnt := by
      rintro rfl
      rw [← length_serializeModel, List.append_assoc, List.drop_left, scntField, if_pos rfl,
        List.take_left' (length_bytesBE _ _)]
      exact natBE_bytesBE (by omega)
    markerFits := hpad
    emptyMarker := hempty
    total := rfl
    payload := by rw [← hsize, List.drop_length_add_append, List.drop_succ_cons, List.drop_zero]
    nBits := rfl }

/-- Settles O36: the serialized block passes each of the parser's checks. -/
theorem headerParsesBack : Obligations.HeaderParsesBack := fun m ari pad _ hm hpad hempty =>
  parseHeader_ok_iff.mpr ⟨m.length, pad, readFrom_layout ari hm hpad hempty⟩

/-- A source that passes the parser's checks is the header they read, laid out. -/
theorem layout_of_readFrom {h : Header} {src : List Byte} {ari : Bool} {n pad : Nat} (hr : h.ReadFrom src ari n pad) :
    src = serializeModel h.model ++ scntField ari h.total ++ BitVec.ofNat 8 pad :: h.payload := by
  have hlen : h.model.length = n := (parseRecords_ok hr.records).1
  have hcount : bytesBE n 2 = src.take 2 := bytesBE_eq_of_natBE hr.count (List.length_take_of_le hr.hasCount)
  have hmodel : src = serializeModel h.model ++ src.drop (2 + 5 * n) := by
    conv_lhs => rw [← List.take_append_drop 2 src, ← hcount, parseRecords_ok_eq hr.records]
    rw [List.drop_drop, serializeModel, hlen, List.append_assoc]
  have hscnt : src.drop (2 + 5 * n) = scntField ari h.total ++ src.drop (headerSize n ari) := by
    have hlong := hr.hasHeader
    cases ari with
    | false => rfl
    | true =>
      have hrest : src.drop (2 + 5 * n + 4) = (src.drop (2 + 5 * n)).drop 4 := List.drop_drop.symm
      have hfield : bytesBE h.total 4 = (src.drop (2 + 5 * n)).take 4 := by
        refine bytesBE_eq_of_natBE ((hr.scnt rfl).trans hr.total.symm) (List.length_take_of_le ?_)
        rw [List.length_drop]
        simp only [headerSize, if_true] at hlong
        omega
      rw [scntField, if_pos rfl, hfield, headerSize, if_pos rfl, hrest, List.take_append_drop]
  have hmarker : src.drop (headerSize n ari) = BitVec.ofNat 8 pad :: h.payload := by
    have hlt : headerSize n ari < src.length := hr.hasHeader
    rw [List.drop_eq_getElem_cons hlt, hr.payload, ← hr.marker, List.getD_eq_getElem _ _ hlt, BitVec.ofNat_toNat,
      BitVec.setWidth_eq]
  rw [List.append_assoc, ← hmarker, ← hscnt, ← hmodel]

/-- Settles O37: what passes the parser's checks is well formed and laid out as the block formats say. -/
theorem parsedHeaderIsWellFormed : Obligations.ParsedHeaderIsWellFormed := by
  intro src ari h hp
  obtain ⟨hwf, htotal, _⟩ := parseHeader_ok hp
  obtain ⟨n, pad, hr⟩ := parseHeader_ok_iff.mp hp
  exact ⟨hwf, htotal, pad, hr.markerFits, hr.emptyMarker, hr.nBits, layout_of_readFrom hr⟩

/-! ## BuildModel (R102, R103) -/

/-- The records of an input's model are the symbols that occur, each with its count. -/
theorem mem_buildModel_iff (src : List Byte) (s : Byte) (f : Nat) :
    (s, f) ∈ buildModel src ↔ f = src.count s ∧ 1 ≤ f := by
  rw [buildModel_eq]
  simp only [List.mem_map, List.mem_filter, decide_eq_true_eq, Prod.mk.injEq]
  constructor
  · rintro ⟨b, ⟨_, hb⟩, rfl, rfl⟩
    exact ⟨rfl, List.count_pos_iff.mpr hb⟩
  · rintro ⟨rfl, hf⟩
    exact ⟨s, ⟨mem_allSymbols s, List.count_pos_iff.mp hf⟩, rfl, rfl⟩

/-- The symbols of an input's model ascend, however long the input is. -/
theorem buildModel_pairwise (src : List Byte) : (buildModel src).Pairwise SymbolLt := by
  rw [buildModel_eq]
  exact List.pairwise_map.mpr (allSymbols_pairwise.filter _)

/-- Settles O34: the model is the filtered alphabet with its counts. -/
theorem modelCountsEverySymbol : Obligations.ModelCountsEverySymbol := fun src =>
  ⟨mem_buildModel_iff src, List.pairwise_map.mpr (buildModel_pairwise src), total_buildModel src,
    length_buildModel_le src⟩

/-! ## FREQ (R109) -/

/-- A source has as many bytes as the command's length operand says. -/
theorem length_source (s : State) (l : Latch) : (s.source l).length = l.sl.toNat := Memory.length_readBytes _ _ _

/-- Settles O50: the body's result is the serialized model, which the window takes by its length 2 + 5·n. -/
theorem freqWritesTheModel : Obligations.FreqWritesTheModel := by
  intro s r ha ht
  rw [← length_serializeModel] at ht
  rw [← length_source s]
  exact ⟨_, exec_takes ha rfl ht⟩

/-! ## How an undisturbed command ends (R100, R101) -/

/-- What becomes of a body's result: it is stored, unless it overflows the window or a write of it gets a bus error (R205,
R209). -/
def delivered (p : Platform) (l : Latch) (b : BodyOut) : BodyResult :=
  if l.dc.toNat < b.out.length then .error .outputOverflow
  else if p.answers .write ⟨l.da.toNat, b.out.length⟩ .error then .error .busError
  else .ok b

/-- The end of an undisturbed command that completes: a function of the command, the platform, the latched operands and
the source bytes, and of nothing else (R101). -/
def verdict (i : Instr) (p : Platform) (l : Latch) (src : List Byte) : BodyResult :=
  match preCheck i l with
  | some code => .error code
  | none => (bodyOf i src l.dc.toNat).bind (delivered p l)

/-- The command `r` of `s` has completed in `t` as a verdict says: with its error, or with its result in the window. -/
def State.EndsAs (s : State) (r : Running) (t : State) : BodyResult → Prop
  | .error code => t.FailedWith code
  | .ok b => t = s.success r b.out b.syms b.work ∧ b.out.length ≤ r.latch.dc.toNat

/-- Whether a set of accesses that does not stall ends with a bus error is the platform's alone: the free choice of log 13
decides only between a bus error and a stall. -/
theorem answers_error_iff {s : State} {dir : DmaDir} {reg : Region} (h : s.dma dir reg ≠ .stall) :
    s.platform.answers dir reg .error = true ↔ s.dma dir reg = .error := by
  unfold State.dma at h ⊢
  split at h
  · exact absurd rfl h
  · rw [if_neg ‹_›]
    split <;> simp [*]

/-- A result whose delivery completes the command ends it as `delivered` says. -/
theorem deliver_endsAs {s : State} {r : Running} {b : BodyOut} (hdone : (s.deliver r b).running = none) :
    s.EndsAs r (s.deliver r b) (delivered s.platform r.latch b) := by
  have herror := answers_error_iff (s := s) (dir := .write) (reg := ⟨r.latch.da.toNat, b.out.length⟩)
  rcases deliver_cases s r b with ⟨⟨hle, hd⟩, e⟩ | ⟨hlt, e⟩ | ⟨hle, hd, e⟩ | ⟨_, _, e⟩
  · have hok : ¬ s.platform.answers .write ⟨r.latch.da.toNat, b.out.length⟩ .error = true := by
      rw [herror (by rw [hd]; nofun), hd]
      nofun
    rw [delivered, if_neg (Nat.not_lt.mpr hle), if_neg hok]
    exact ⟨e, hle⟩
  · rw [delivered, if_pos hlt, e]
    exact endWithError_failedWith s r .outputOverflow
  · rw [delivered, if_neg (Nat.not_lt.mpr hle), if_pos ((herror (by rw [hd]; nofun)).mpr hd), e]
    exact endWithError_failedWith s r .busError
  · rw [e] at hdone
    cases hdone

/-- An undisturbed command that completes ends as its verdict says. -/
theorem exec_endsAs {i : Instr} {s s' : State} {r : Running} (hs : s.Undisturbed r) (h : exec i s = .next s')
    (hdone : s'.running = none) : s.EndsAs r s' (verdict i s.platform r.latch (s.source r.latch)) := by
  obtain ⟨hr, hstable, _⟩ := id hs
  obtain ⟨hhazard, _⟩ := Bool.or_eq_false_iff.mp hstable
  unfold verdict
  cases hp : preCheck i r.latch with
  | some code =>
    have hframe : s.frame i r (bodyOf i) = s.completeErr code := by
      simp [State.frame, hp, State.endBeforeDma, hhazard]
    rw [exec_running i hr, hframe] at h
    cases h
    exact ⟨rfl, rfl, rfl, rfl, rfl, rfl⟩
  | none =>
    rw [exec_admits ⟨hs, hp⟩] at h
    cases h
    cases hb : bodyOf i (s.source r.latch) r.latch.dc.toNat with
    | error code => exact endWithError_failedWith s r code
    | ok b =>
      rw [hb] at hdone
      exact deliver_endsAs hdone

/-- Two failures with one code show the same STATUS (R212). -/
theorem statusWord_failedWith {s t : State} {code : ErrCode} (hs : s.FailedWith code) (ht : t.FailedWith code) :
    s.statusWord = t.statusWord := by
  obtain ⟨hrun, hdone, hempty, hcode, _⟩ := hs
  obtain ⟨hrun', hdone', hempty', hcode', _⟩ := ht
  simp only [State.statusWord, State.busy, State.err, hrun, hrun', hdone, hdone', hempty, hempty', hcode, hcode']

/-- A success stores its result from the window's first byte on (R56). -/
theorem success_read (s : State) (r : Running) {out : List Byte} (syms : Nat) (w : Work) {k : Nat} (hk : k < out.length) :
    (s.success r out syms w).mem.read (r.latch.da.toNat + k) = out[k] :=
  Memory.read_writeBytes_inside _ _ _ _ hk

/-- Settles O33: the two commands have one verdict, and what they show is the verdict's. -/
theorem outcomeDependsOnlyOnTheSource : Obligations.OutcomeDependsOnlyOnTheSource := by
  intro i s t s' t' r q hs ht hlatch hplatform hsource hexec hexec' hdone hdone'
  have hends := exec_endsAs hs hexec hdone
  have hends' := exec_endsAs ht hexec' hdone'
  rw [← hlatch, ← hplatform] at hends'
  rw [← hlatch] at hsource
  rw [← hsource] at hends'
  cases hv : verdict i s.platform r.latch (s.source r.latch) with
  | error code =>
    rw [hv] at hends hends'
    obtain ⟨_, _, _, _, hlen, hsyms⟩ := id hends
    obtain ⟨_, _, _, _, hlen', hsyms'⟩ := id hends'
    refine ⟨statusWord_failedWith hends hends', hlen.trans hlen'.symm, hsyms.trans hsyms'.symm, fun _ k hk => ?_⟩
    rw [hlen] at hk
    cases hk
  | ok b =>
    rw [hv] at hends hends'
    obtain ⟨rfl, _⟩ := hends
    obtain ⟨rfl, _⟩ := hends'
    refine ⟨by rw [statusWord_success, statusWord_success], rfl, rfl, fun _ k hk => ?_⟩
    have hk' : k < b.out.length := Nat.lt_of_lt_of_le hk (Nat.mod_le _ _)
    rw [success_read s r _ _ hk', hlatch, success_read t q _ _ hk']

end Sys2Proof.Machine
end

section
/-! # The Huffman tree of a model (R120 to R125) -/

namespace Sys2Proof.Machine

/-! ## The smallest node (R121 to R123) -/

/-- Node `a` does not come after node `b` in the order by (freq, idx) (R122). -/
def HuffTree.NotAfter (a b : HuffTree) : Prop := a.freq < b.freq ∨ (a.freq = b.freq ∧ a.idx ≤ b.idx)

theorem HuffTree.NotAfter.trans {a b c : HuffTree} (hab : a.NotAfter b) (hbc : b.NotAfter c) : a.NotAfter c := by
  unfold HuffTree.NotAfter at *
  omega

theorem notAfter_of_before {a b : HuffTree} (h : a.before b = true) : a.NotAfter b := by
  simp only [HuffTree.before, Bool.or_eq_true, Bool.and_eq_true, decide_eq_true_eq] at h
  unfold HuffTree.NotAfter
  omega

theorem notAfter_of_not_before {a b : HuffTree} (h : ¬ b.before a = true) : a.NotAfter b := by
  simp only [HuffTree.before, Bool.or_eq_true, Bool.and_eq_true, decide_eq_true_eq] at h
  unfold HuffTree.NotAfter
  omega

/-- No node of the collection is smaller than the one `popMin` takes out. -/
theorem popMin_notAfter (a : HuffTree) (q : List HuffTree) : ∀ x ∈ a :: q, (popMin a q).1.NotAfter x := by
  induction q generalizing a with
  | nil => exact List.forall_mem_singleton.mpr (.inr ⟨rfl, Nat.le_refl _⟩)
  | cons b q ih =>
    unfold popMin
    split
    · obtain ⟨hb, hq⟩ := List.forall_mem_cons.mp (ih b)
      exact List.forall_mem_cons.mpr ⟨hb.trans (notAfter_of_before ‹_›), List.forall_mem_cons.mpr ⟨hb, hq⟩⟩
    · obtain ⟨ha, hq⟩ := List.forall_mem_cons.mp (ih a)
      exact List.forall_mem_cons.mpr ⟨ha, List.forall_mem_cons.mpr ⟨ha.trans (notAfter_of_not_before ‹_›), hq⟩⟩

/-- The nodes that stay in the collection are not smaller than the one taken out. -/
theorem popMin_notAfter_rest (a : HuffTree) (q : List HuffTree) : ∀ x ∈ (popMin a q).2, (popMin a q).1.NotAfter x :=
  fun x hx => popMin_notAfter a q x ((popMin_perm a q).subset (List.mem_cons_of_mem _ hx))

/-- A pass of the loop of R123: the two smallest nodes `x` and `y` become the children of the node put in. -/
theorem mergeTwo_spec (next : Nat) (a b : HuffTree) (q : List HuffTree) :
    ∃ x y rest, mergeTwo next a b q = .node (x.freq + y.freq) next x y :: rest ∧
      (x :: y :: rest).Perm (a :: b :: q) ∧ (∀ z ∈ y :: rest, x.NotAfter z) ∧ ∀ z ∈ rest, y.NotAfter z := by
  have hperm := popMin_perm a (b :: q)
  have hmin := popMin_notAfter_rest a (b :: q)
  unfold mergeTwo
  simp only
  split
  · rename_i hnil
    rw [hnil] at hperm
    exact absurd hperm.length_eq (by simp)
  · rename_i c rest hcons
    rw [hcons] at hperm hmin
    have hperm' := popMin_perm c rest
    exact ⟨_, _, _, rfl, (hperm'.cons _).trans hperm, fun z hz => hmin z (hperm'.subset hz),
      popMin_notAfter_rest c rest⟩

@[simp] theorem length_leavesFrom (r : Nat) (m : FreqModel) : (leavesFrom r m).length = m.length := by
  induction m generalizing r with
  | nil => rfl
  | cons p m ih => exact congrArg (· + 1) (ih (r + 1))

/-- The leaf at rank `k` has the index `r + k` when the ranks begin at `r` (R121). -/
theorem getElem?_leavesFrom (r : Nat) (m : FreqModel) {k : Nat} (h : k < m.length) :
    (leavesFrom r m)[k]? = some (.leaf m[k].1 m[k].2 (r + k)) := by
  induction m generalizing r k with
  | nil => cases h
  | cons p m ih =>
    cases k with
    | zero => rfl
    | succ k =>
      rw [leavesFrom, List.getElem?_cons_succ, ih (r + 1) (Nat.lt_of_succ_lt_succ h), Nat.add_right_comm]
      rfl

/-- Settles O41: the leaves by their ranks, the two smallest nodes by the order of `popMin`. -/
theorem smallestNodeIsRemovedFirst : Obligations.SmallestNodeIsRemovedFirst :=
  ⟨fun m k h => ⟨length_leavesFrom 0 m, by simpa using getElem?_leavesFrom 0 m h⟩,
    fun a q => ⟨popMin_perm a q, popMin_notAfter_rest a q⟩, mergeTwo_spec⟩

/-! ## The loop to its end (R123 to R125) -/

/-- The loop of R123 ends with one tree: the only node it was given, or the last one it put in. -/
theorem mergeLoop_eq_singleton {k : Nat} (next : Nat) {q : List HuffTree} (hne : q ≠ []) (hk : q.length ≤ k + 1) :
    ∃ t, mergeLoop k next q = [t] ∧ (q = [t] ∨ t.idx + 2 = next + q.length) := by
  induction k generalizing next q with
  | zero =>
    obtain ⟨t, rfl⟩ := List.length_eq_one_iff.mp (Nat.le_antisymm hk (List.length_pos_iff.mpr hne))
    exact ⟨t, rfl, .inl rfl⟩
  | succ k ih =>
    obtain _ | ⟨a, _ | ⟨b, q⟩⟩ := q
    · exact absurd rfl hne
    · exact ⟨a, rfl, .inl rfl⟩
    · obtain ⟨x, y, rest, hmerge, hperm, -, -⟩ := mergeTwo_spec next a b q
      have hlen := hperm.length_eq
      simp only [List.length_cons] at hlen hk
      rw [mergeLoop, hmerge]
      obtain ⟨t, ht, hlast⟩ := ih (next + 1) (List.cons_ne_nil (.node (x.freq + y.freq) next x y) rest)
        (by simp only [List.length_cons]; omega)
      refine ⟨t, ht, .inr ?_⟩
      rcases hlast with hroot | hidx
      · obtain ⟨rfl, rfl⟩ := List.cons.inj hroot
        simp only [HuffTree.idx, List.length_cons, List.length_nil] at hlen ⊢
        omega
      · simp only [List.length_cons] at hidx ⊢
        omega

/-- A pass of the loop of R123 keeps the sum of the frequencies. -/
theorem mergeTwo_freq (next : Nat) (a b : HuffTree) (q : List HuffTree) :
    ((mergeTwo next a b q).map HuffTree.freq).sum = ((a :: b :: q).map HuffTree.freq).sum := by
  obtain ⟨x, y, rest, hmerge, hperm, -, -⟩ := mergeTwo_spec next a b q
  rw [hmerge, ← (hperm.map HuffTree.freq).sum_eq]
  simp only [List.map_cons, List.sum_cons, HuffTree.freq]
  omega

theorem mergeLoop_freq (k next : Nat) (q : List HuffTree) :
    ((mergeLoop k next q).map HuffTree.freq).sum = (q.map HuffTree.freq).sum := by
  fun_induction mergeLoop k next q with
  | case1 k next a b q ih => exact ih.trans (mergeTwo_freq next a b q)
  | case2 => rfl

theorem map_freq_leavesFrom (r : Nat) (m : FreqModel) : (leavesFrom r m).map HuffTree.freq = m.map Prod.snd := by
  induction m generalizing r with
  | nil => rfl
  | cons p m ih => exact congrArg (p.2 :: ·) (ih (r + 1))

/-- A non-empty model has a tree: the model's records are its leaves, the total is its frequency, and its root is the
last of 2n − 1 nodes (R123 to R125). -/
theorem buildTree_eq_some {m : FreqModel} (h : m ≠ []) :
    ∃ t, buildTree m = some t ∧ t.leaves.Perm m ∧ t.freq = m.total ∧ t.idx = 2 * m.length - 2 := by
  have hlen := List.length_pos_iff.mpr h
  have hne : leavesFrom 0 m ≠ [] := by rwa [← List.length_pos_iff, length_leavesFrom]
  obtain ⟨t, ht, hlast⟩ := mergeLoop_eq_singleton (k := m.length) m.length hne (by simp)
  have hleaves := mergeLoop_forestLeaves m.length m.length (leavesFrom 0 m)
  have hfreq := mergeLoop_freq m.length m.length (leavesFrom 0 m)
  rw [ht, forestLeaves_leavesFrom] at hleaves
  rw [ht, map_freq_leavesFrom] at hfreq
  refine ⟨t, by rw [buildTree, ht]; rfl, by simpa [forestLeaves] using hleaves,
    by simpa [FreqModel.total] using hfreq, ?_⟩
  rcases hlast with hone | hidx
  · have hone' := length_leavesFrom 0 m
    have hfirst := getElem?_leavesFrom 0 m hlen
    rw [hone] at hone' hfirst
    obtain rfl : t = .leaf _ _ (0 + 0) := Option.some.inj hfirst
    simp only [HuffTree.idx, List.length_singleton] at hone' ⊢
    omega
  · rw [length_leavesFrom] at hidx
    omega

/-- The tree of a model has the model's records as its leaves (R123). -/
theorem buildTree_leaves_perm {m : FreqModel} {t : HuffTree} (h : buildTree m = some t) : t.leaves.Perm m := by
  have hne : m ≠ [] := by rintro rfl; cases h
  obtain ⟨t', ht, hleaves, -, -⟩ := buildTree_eq_some hne
  rw [h] at ht
  exact Option.some.inj ht ▸ hleaves

/-- The tree of a model is a leaf only for a model of that one record. -/
theorem buildTree_leaf {m : FreqModel} {s : Byte} {f i : Nat} (h : buildTree m = some (.leaf s f i)) : m = [(s, f)] :=
  (List.singleton_perm.mp (buildTree_leaves_perm h)).symm

/-- A model whose tree's root is a node has at least two symbols. -/
theorem two_le_length_of_buildTree_node {m : FreqModel} {f i : Nat} {l r : HuffTree}
    (h : buildTree m = some (.node f i l r)) : 2 ≤ m.length := by
  rw [← (buildTree_leaves_perm h).length_eq, HuffTree.leaves, List.length_append]
  exact Nat.add_le_add (leaves_length_pos l) (leaves_length_pos r)

/-- A tree of n leaves has 2n − 1 nodes. -/
theorem nodes_add_one (t : HuffTree) : t.nodes + 1 = 2 * t.leaves.length := by
  induction t with
  | leaf => rfl
  | node f i l r ihl ihr =>
    rw [HuffTree.nodes, HuffTree.leaves, List.length_append]
    omega

/-- Settles O40: what the loop keeps, and the count of nodes by that of leaves. -/
theorem huffmanTreeShape : Obligations.HuffmanTreeShape := by
  intro m _ hne
  obtain ⟨t, ht, hleaves, hfreq, hidx⟩ := buildTree_eq_some hne
  have hnodes := nodes_add_one t
  rw [hleaves.length_eq] at hnodes
  exact ⟨t, ht, by omega, hfreq, hidx, hleaves⟩

end Sys2Proof.Machine
end

section
/-! # Huffman codewords: the paths of the tree, none the beginning of another, Kraft's sum, and the encoder's
results (R126 to R137) -/

namespace Sys2Proof.Machine

/-! ## Paths (R126) -/

/-- A path goes on from the node that its first part reaches. -/
theorem follow_append {t u : HuffTree} {p : Bits} (q : Bits) (h : t.follow p = some u) :
    t.follow (p ++ q) = u.follow q := by
  induction p generalizing t with
  | nil => rw [HuffTree.follow] at h; cases h; rfl
  | cons b p ih =>
    cases t with
    | leaf s f i => cases h
    | node f i l r => cases b <;> exact ih h

/-- The path to `b`'s leaf: what a codeword is in a tree whose root is a node (R126). -/
def HuffTree.Leads (t : HuffTree) (p : Bits) (b : Byte) : Prop := ∃ f i, t.follow p = some (.leaf b f i)

theorem leads_nil {t : HuffTree} {b : Byte} : t.Leads [] b ↔ ∃ f i, t = .leaf b f i := by
  simp [HuffTree.Leads, HuffTree.follow]

theorem not_leads_leaf_cons {s b : Byte} {f i : Nat} {c : Bool} {p : Bits} : ¬ (HuffTree.leaf s f i).Leads (c :: p) b :=
  nofun

/-- Bit 0 goes to the left child, bit 1 to the right (R126). -/
theorem leads_node_cons {f i : Nat} {l r : HuffTree} {c : Bool} {p : Bits} {b : Byte} :
    (HuffTree.node f i l r).Leads (c :: p) b ↔ (if c then r else l).Leads p b := by
  cases c <;> rfl

/-- No path to a leaf is a beginning of a path to another leaf. -/
theorem leads_prefix {t : HuffTree} {p q : Bits} {a b : Byte} (hp : t.Leads p a) (hq : t.Leads q b) (h : p <+: q) :
    a = b := by
  obtain ⟨f, i, hp⟩ := hp
  obtain ⟨g, j, hq⟩ := hq
  obtain ⟨rest, rfl⟩ := h
  rw [follow_append rest hp] at hq
  cases rest with
  | nil => cases hq; rfl
  | cons c rest => cases hq

/-- What `pathsFrom` lists are the paths to the leaves, each after the path to the node. -/
theorem leads_of_mem_pathsFrom {t : HuffTree} {p : Bits} :
    ∀ e ∈ pathsFrom t p, ∃ path, e.2 = p ++ path ∧ t.Leads path e.1 := by
  induction t generalizing p with
  | leaf s f i => exact List.forall_mem_singleton.mpr ⟨[], (List.append_nil p).symm, f, i, rfl⟩
  | node f i l r ihl ihr =>
    refine List.forall_mem_append.mpr ⟨fun e he => ?_, fun e he => ?_⟩
    · obtain ⟨path, hpath, hleads⟩ := ihl e he
      exact ⟨false :: path, by rw [hpath, List.append_assoc]; rfl, hleads⟩
    · obtain ⟨path, hpath, hleads⟩ := ihr e he
      exact ⟨true :: path, by rw [hpath, List.append_assoc]; rfl, hleads⟩

/-- The symbols of the paths are those of the leaves, left to right. -/
theorem map_fst_pathsFrom (t : HuffTree) (p : Bits) : (pathsFrom t p).map Prod.fst = t.leaves.map Prod.fst := by
  induction t generalizing p with
  | leaf => rfl
  | node f i l r ihl ihr => rw [pathsFrom, HuffTree.leaves, List.map_append, List.map_append, ihl, ihr]

/-- Kraft's sum of the paths below a node is that of the path to the node. -/
theorem kraftSum_pathsFrom {t : HuffTree} {p : Bits} (h : p.length + t.leaves.length ≤ 256) :
    kraftSum (pathsFrom t p) = 2 ^ (255 - p.length) := by
  induction t generalizing p with
  | leaf s f i => simp [kraftSum, pathsFrom]
  | node f i l r ihl ihr =>
    have hl := leaves_length_pos l
    have hr := leaves_length_pos r
    rw [HuffTree.leaves, List.length_append] at h
    have hsplit : kraftSum (pathsFrom (.node f i l r) p) =
        kraftSum (pathsFrom l (p ++ [false])) + kraftSum (pathsFrom r (p ++ [true])) := by
      simp [kraftSum, pathsFrom]
    have hstep : ∀ b, (p ++ [b]).length = p.length + 1 := fun b => by simp
    rw [hsplit, ihl (by rw [hstep]; omega), ihr (by rw [hstep]; omega), hstep, hstep, ← Nat.two_mul, ← Nat.pow_succ']
    congr 1
    omega

/-! ## Code tables (R126 to R128) -/

/-- The code table of a tree whose root is a node lists the paths to its leaves. -/
theorem assignCodes_node (f i : Nat) (l r : HuffTree) : assignCodes (.node f i l r) = pathsFrom (.node f i l r) [] := by
  rw [assignCodes, assign_node]
  rfl

theorem codesOfModel_of_buildTree {m : FreqModel} {t : HuffTree} (h : buildTree m = some t) :
    codesOfModel m = assignCodes t := by
  rw [codesOfModel, h]

/-- The symbols of a tree's code table are those of its leaves. -/
theorem map_fst_assignCodes (t : HuffTree) : (assignCodes t).map Prod.fst = t.leaves.map Prod.fst := by
  cases t with
  | leaf => rfl
  | node => rw [assignCodes_node, map_fst_pathsFrom]

/-- The code table of a model has the model's symbols; the empty model has none. -/
theorem codesOfModel_symbols (m : FreqModel) : ((codesOfModel m).map Prod.fst).Perm (m.map Prod.fst) := by
  by_cases hne : m = []
  · subst hne; exact .refl _
  · obtain ⟨t, ht, hleaves, -, -⟩ := buildTree_eq_some hne
    rw [codesOfModel_of_buildTree ht, map_fst_assignCodes]
    exact hleaves.map _

/-- A codeword of a tree whose root is a node is the path to its symbol's leaf. -/
theorem leads_of_mem_codesOfModel {m : FreqModel} {f i : Nat} {l r : HuffTree}
    (h : buildTree m = some (.node f i l r)) :
    ∀ p ∈ codesOfModel m, (HuffTree.node f i l r).Leads p.2 p.1 := by
  rw [codesOfModel_of_buildTree h, assignCodes_node]
  intro p hp
  obtain ⟨path, hpath, hleads⟩ := leads_of_mem_pathsFrom p hp
  rwa [hpath]

/-- A listed symbol's codeword is an entry of the table. -/
theorem mem_codeOf {codes : CodeTable} {b : Byte} (h : b ∈ codes.map Prod.fst) : (b, codeOf codes b) ∈ codes := by
  obtain ⟨e, he, rfl⟩ := List.mem_map.mp h
  unfold codeOf
  split
  · rename_i p hp
    have hkey : p.1 = e.1 := by simpa using List.find?_some hp
    exact hkey ▸ List.mem_of_find?_eq_some hp
  · rename_i hnone
    exact absurd (List.find?_eq_none.mp hnone e he) (by simp)

/-- In a table that lists no symbol twice, a symbol's codeword is that of its entry. -/
theorem codeOf_eq_of_mem {codes : CodeTable} {p : Byte × Bits} (hnodup : (codes.map Prod.fst).Nodup) (h : p ∈ codes) :
    codeOf codes p.1 = p.2 :=
  congrArg Prod.snd (List.inj_on_of_nodup_map hnodup (mem_codeOf (List.mem_map_of_mem h)) h rfl)

/-- The codeword of a symbol of the model is an entry of the model's table. -/
theorem mem_codeOf_codesOfModel {m : FreqModel} {b : Byte} (h : b ∈ m.map Prod.fst) :
    (b, codeOf (codesOfModel m) b) ∈ codesOfModel m :=
  mem_codeOf ((codesOfModel_symbols m).symm.subset h)

/-- A well-formed model lists no symbol twice. -/
theorem nodup_symbols {m : FreqModel} (hm : FreqModel.wf m = true) : (m.map Prod.fst).Nodup := by
  obtain ⟨_, hasc, _, _⟩ := (freqModel_wf_iff m).mp hm
  refine List.pairwise_map.mpr (hasc.imp fun {p q} hlt heq => ?_)
  rw [SymbolLt, heq] at hlt
  exact Nat.lt_irrefl _ hlt

/-- The only symbol of a model has the codeword 0 (R127). -/
theorem codesOfModel_singleton (s : Byte) (f : Nat) : codesOfModel [(s, f)] = [(s, [false])] := rfl

/-- Kraft's sum of a well-formed model of at least two symbols is 1. -/
theorem kraftSum_codesOfModel {m : FreqModel} {f i : Nat} {l r : HuffTree} (hm : FreqModel.wf m = true)
    (h : buildTree m = some (.node f i l r)) : kraftSum (codesOfModel m) = 2 ^ 255 := by
  rw [codesOfModel_of_buildTree h, assignCodes_node, kraftSum_pathsFrom]
  · rfl
  · rw [List.length_nil, Nat.zero_add]
    exact leaves_le_alphabet hm h

/-- Settles O42: a tree that is a leaf has the one codeword 0, one whose root is a node has its paths as codewords. -/
theorem codeTableIsPrefixFreeAndFull : Obligations.CodeTableIsPrefixFreeAndFull := by
  intro m hm hne
  obtain ⟨_, hsizes⟩ := codesOfModel_sizes hm
  have hnodup : ((codesOfModel m).map Prod.fst).Nodup := (codesOfModel_symbols m).nodup_iff.mpr (nodup_symbols hm)
  have hentry : ∀ p ∈ codesOfModel m, 1 ≤ p.2.length ∧ p.2.length ≤ 255 ∧ codeOf (codesOfModel m) p.1 = p.2 :=
    fun p hp => ⟨(hsizes p hp).1, (hsizes p hp).2, codeOf_eq_of_mem hnodup hp⟩
  have hsingle : ∀ s f, m = [(s, f)] → codesOfModel m = [(s, [false])] := fun s f h => h ▸ codesOfModel_singleton s f
  obtain ⟨t, ht, -, -, -⟩ := buildTree_eq_some hne
  refine ⟨codesOfModel_symbols m, hentry, ?_⟩
  cases t with
  | leaf s f i =>
    obtain rfl := buildTree_leaf ht
    have hcodes := codesOfModel_singleton s f
    refine ⟨fun p hp q hq hpq => ?_, fun h => ?_, fun _ => ?_, hsingle, fun h => ?_⟩
    · rw [hcodes, List.mem_singleton] at hp hq
      exact absurd (by rw [hp, hq]) hpq
    · exact absurd h (by simp)
    · simp [hcodes, kraftSum]
    · exact absurd h (by simp)
  | node f i l r =>
    have hleads := leads_of_mem_codesOfModel ht
    have htwo := two_le_length_of_buildTree_node ht
    exact ⟨fun p hp q hq hpq h => hpq (leads_prefix (hleads p hp) (hleads q hq) h),
      fun _ => kraftSum_codesOfModel hm ht, fun h => by omega, hsingle, fun _ => ⟨f, i, l, r, ht, hleads⟩⟩

/-! ## The length of the payload (R130, R137) -/

/-- A sum over an input is the sum over its model, each record weighted by its frequency. -/
theorem sum_map_eq_sum_buildModel (g : Byte → Nat) (src : List Byte) :
    (src.map g).sum = ((buildModel src).map fun p => p.2 * g p.1).sum := by
  have hsymbols : (allSymbols.filter fun s => decide (s ∈ src)).toFinset = src.toFinset := by
    ext b
    simp [mem_allSymbols]
  rw [Finset.sum_list_map_count, ← hsymbols, List.sum_toFinset _ (nodup_allSymbols.filter _), buildModel_eq,
    List.map_map]
  rfl

/-- A bound above 0 that holds of every codeword of a table holds of what the table gives any symbol. -/
theorem length_codeOf_lt {codes : CodeTable} {n : Nat} (hn : 0 < n) (h : ∀ p ∈ codes, p.2.length < n) (b : Byte) :
    (codeOf codes b).length < n := by
  unfold codeOf
  split
  · exact h _ (List.mem_of_find?_eq_some ‹_›)
  · exact hn

/-- Settles O43: the payload's bits counted symbol by symbol of the model, and bounded symbol by symbol of the input. -/
theorem huffmanPayloadLength : Obligations.HuffmanPayloadLength := by
  intro src _
  refine ⟨by rw [List.length_flatMap, sum_map_eq_sum_buildModel], fun hne hshort => ?_⟩
  have hpos := List.length_pos_iff.mpr hne
  have hsum := List.sum_le_card_nsmul (src.map fun b => (codeOf (codesOfModel (buildModel src)) b).length) 7
    (List.forall_mem_map.mpr fun b _ => Nat.le_of_lt_succ (length_codeOf_lt (by decide) hshort b))
  rw [List.length_map, smul_eq_mul] at hsum
  rw [List.length_flatMap]
  omega

/-! ## What HENC and HCODES write (R130, R134) -/

/-- The bits of a Huffman payload: the codewords of the input symbols, one after another (R130). -/
def huffmanBits (src : List Byte) : Bits := src.flatMap (codeOf (codesOfModel (buildModel src)))

/-- A block of HENC: header, padding marker, packed bits (R75). -/
def huffmanBlock (src : List Byte) : List Byte :=
  serializeModel (buildModel src) ++ BitVec.ofNat 8 (padOf (huffmanBits src).length) :: packBits (huffmanBits src)

/-- Only the empty input has the empty model (R102). -/
theorem buildModel_eq_nil {src : List Byte} : buildModel src = [] ↔ src = [] := by
  constructor
  · intro h
    exact List.eq_nil_iff_forall_not_mem.mpr fun b hb => List.not_mem_nil (h ▸ mem_buildModel hb)
  · rintro rfl
    exact buildModel_nil

/-- HENC's body returns the block of its source. -/
theorem bodyHenc_eq (src : List Byte) (dc : Nat) : ∃ w, bodyHenc src dc = .ok ⟨huffmanBlock src, src.length, w⟩ := by
  unfold bodyHenc
  simp only [List.length_eq_zero_iff]
  split
  · rename_i hempty
    obtain rfl := buildModel_eq_nil.mp hempty
    exact ⟨_, rfl⟩
  · refine ⟨codeWork (buildModel src) (huffmanWriter (codesOfModel (buildModel src)) src), ?_⟩
    rw [BitWriter.flush, huffmanWriter_bits]
    rfl

theorem length_huffmanBlock (src : List Byte) :
    (huffmanBlock src).length = 3 + 5 * (buildModel src).length + ((huffmanBits src).length + 7) / 8 := by
  rw [huffmanBlock, List.length_append, length_serializeModel, List.length_cons, length_packBits]
  omega

/-- Settles O51: the body's block is delivered; its length is that of its three parts. -/
theorem hencWritesTheBlock : Obligations.HencWritesTheBlock := by
  intro s r ha src m bits ht
  obtain ⟨w, hbody⟩ := bodyHenc_eq src r.latch.dc.toNat
  have ht' : s.Takes r (huffmanBlock src).length := (length_huffmanBlock src).symm ▸ ht
  refine ⟨w, (exec_takes ha hbody ht').trans ?_⟩
  rw [length_source]
  rfl

/-- The bits of a codeword alone, packed, are the field CODE of its entry (R82). -/
theorem codeEntry_eq (codes : CodeTable) (s : Byte) :
    codeEntry codes s = s :: BitVec.ofNat 8 (codeOf codes s).length :: packBits (codeOf codes s) := by
  rw [codeEntry, codeWriter, BitWriter.flush, appendAll_bits]
  rfl

/-- The code-table dump: CNT, then an entry for each symbol (R82). -/
def codeDump (m : FreqModel) : List Byte :=
  bytesBE m.length 2 ++ m.flatMap fun p => codeEntry (codesOfModel m) p.1

/-- HCODES's body returns the dump of its source's model. -/
theorem bodyHcodes_eq (src : List Byte) (dc : Nat) :
    ∃ w, bodyHcodes src dc = .ok ⟨codeDump (buildModel src), src.length, w⟩ := by
  unfold bodyHcodes
  simp only [List.length_eq_zero_iff]
  split
  · rename_i hempty
    obtain rfl := buildModel_eq_nil.mp hempty
    exact ⟨_, rfl⟩
  · exact ⟨_, rfl⟩

/-- Settles O52: the body's dump is delivered; its entries are SYM, LEN and the packed codeword. -/
theorem hcodesWritesTheTable : Obligations.HcodesWritesTheTable := by
  intro s r ha m code ht
  have hdump : codeDump m = bytesBE m.length 2 ++
      m.flatMap fun p => p.1 :: BitVec.ofNat 8 (code p.1).length :: packBits (code p.1) := by
    simp only [codeDump, codeEntry_eq]
    rfl
  have hlen : (codeDump m).length = 2 + (m.map fun p => 2 + ((code p.1).length + 7) / 8).sum := by
    simp only [hdump, List.length_append, length_bytesBE, List.length_flatMap, List.length_cons, length_packBits,
      Nat.add_comm 2, Nat.add_assoc]
  obtain ⟨w, hbody⟩ := bodyHcodes_eq (s.source r.latch) r.latch.dc.toNat
  rw [← hdump, ← length_source]
  exact ⟨w, exec_takes ha hbody (hlen.symm ▸ ht)⟩

end Sys2Proof.Machine
end

section
/-! # The Huffman decoder: what it makes of the bits its reader has left (R131 to R136) -/

namespace Sys2Proof.Machine

/-! ## The bits a reader has left (R182) -/

/-- The bits of the payload from the reader's index up to N_bits. -/
def BitReader.rest (r : BitReader) : Bits := (List.range' r.pos (r.nBits - r.pos)).map (streamBit r.payload)

/-- A read takes the first of the bits left. -/
theorem read_of_rest_cons {r : BitReader} {b : Bool} {bs : Bits} (h : r.rest = b :: bs) :
    r.read = .ok (b, r.advance) ∧ r.advance.rest = bs := by
  by_cases hlt : r.pos < r.nBits
  · have hcount : r.nBits - r.pos = (r.nBits - (r.pos + 1)) + 1 := by omega
    rw [BitReader.rest, hcount, List.range'_succ, List.map_cons] at h
    obtain ⟨hbit, hbits⟩ := List.cons.inj h
    exact ⟨by rw [BitReader.read, if_pos hlt, hbit], hbits⟩
  · rw [BitReader.rest, Nat.sub_eq_zero_of_le (Nat.le_of_not_lt hlt)] at h
    cases h

/-- A read with no bit left is TRUNCATED. -/
theorem read_of_rest_nil {r : BitReader} (h : r.rest = []) : r.read = .error .truncated := by
  rw [BitReader.rest, List.map_eq_nil_iff, List.range'_eq_nil_iff] at h
  rw [BitReader.read, if_neg (by omega)]

@[simp] theorem length_rest_start (payload : List Byte) (n : Nat) : (BitReader.start payload n).rest.length = n := by
  simp [BitReader.rest, BitReader.start]

/-- A payload that agrees with a bit string as far as both go begins with it, or is a beginning of it. -/
theorem rest_start_prefix {payload : List Byte} {n : Nat} {bits : Bits}
    (h : ∀ (k : Nat) (hk : k < bits.length), k < n → streamBit payload k = bits[k]) :
    (bits.length ≤ n → bits <+: (BitReader.start payload n).rest) ∧
      (n ≤ bits.length → (BitReader.start payload n).rest <+: bits) := by
  have hget : ∀ (k : Nat) (hk : k < (BitReader.start payload n).rest.length),
      (BitReader.start payload n).rest[k] = streamBit payload k := fun k hk => by simp [BitReader.rest, BitReader.start]
  refine ⟨fun hle => List.prefix_iff_getElem.mpr ⟨by simpa using hle, fun k hk => ?_⟩,
    fun hle => List.prefix_iff_getElem.mpr ⟨by simpa using hle, fun k hk => ?_⟩⟩
  · rw [hget, h k hk (by omega)]
  · rw [hget]
    rw [length_rest_start] at hk
    exact h k (by omega) hk

/-! ## One symbol (R131, R132) -/

/-- A walk from a node goes on with the child that the next bit names. -/
theorem walk_node {f i : Nat} {l rt : HuffTree} {r : BitReader} {c : Bool} {bs : Bits} (h : r.rest = c :: bs) :
    walk (.node f i l rt) r = walk (if c then rt else l) r.advance := by
  rw [walk, (read_of_rest_cons h).1]
  cases c <;> rfl

/-- A walk along the path to a leaf takes the path's bits and gives the leaf's symbol. -/
theorem walk_of_leads {t : HuffTree} {p bs : Bits} {b : Byte} {r : BitReader} (hp : t.Leads p b)
    (hr : r.rest = p ++ bs) : ∃ r', walk t r = .ok (b, r') ∧ r'.rest = bs := by
  induction p generalizing t r with
  | nil =>
    obtain ⟨f, i, rfl⟩ := leads_nil.mp hp
    exact ⟨r, rfl, hr⟩
  | cons c p ih =>
    cases t with
    | leaf => exact absurd hp not_leads_leaf_cons
    | node f i l rt =>
      rw [walk_node hr]
      exact ih (leads_node_cons.mp hp) (read_of_rest_cons hr).2

/-- A walk whose bits stop inside the path to a leaf is TRUNCATED. -/
theorem walk_truncated {t : HuffTree} {p : Bits} {b : Byte} {r : BitReader} (hp : t.Leads p b) (hr : r.rest <+: p)
    (hlt : r.rest.length < p.length) : walk t r = .error .truncated := by
  induction p generalizing t r with
  | nil => cases hlt
  | cons c p ih =>
    cases t with
    | leaf => exact absurd hp not_leads_leaf_cons
    | node f i l rt =>
      cases hrest : r.rest with
      | nil => rw [walk, read_of_rest_nil hrest]
      | cons c' bs =>
        rw [hrest] at hr hlt
        obtain ⟨rfl, hbs⟩ := List.cons_prefix_cons.mp hr
        rw [← (read_of_rest_cons hrest).2] at hbs hlt
        rw [walk_node hrest]
        exact ih (leads_node_cons.mp hp) hbs (Nat.lt_of_succ_lt_succ hlt)

/-- A walk in a tree of n leaves reaches one of them with at most n − 1 bits, whatever they are. -/
theorem walk_reaches {t : HuffTree} {r : BitReader} (h : t.leaves.length ≤ r.rest.length + 1) :
    ∃ b r', walk t r = .ok (b, r') ∧ b ∈ t.leaves.map Prod.fst ∧
      r.rest.length + 1 ≤ r'.rest.length + t.leaves.length := by
  induction t generalizing r with
  | leaf s f i => exact ⟨s, r, rfl, List.mem_singleton.mpr rfl, Nat.le_refl _⟩
  | node f i l rt ihl ihr =>
    have hl := leaves_length_pos l
    have hr := leaves_length_pos rt
    rw [HuffTree.leaves, List.length_append] at h
    obtain ⟨c, bs, hrest⟩ := List.exists_cons_of_length_pos (l := r.rest) (by omega)
    have hadvance := (read_of_rest_cons hrest).2
    have hlen : r.rest.length = r.advance.rest.length + 1 := by rw [hrest, hadvance, List.length_cons]
    rw [walk_node hrest, HuffTree.leaves, List.map_append, List.length_append]
    cases c
    · obtain ⟨b, r', hwalk, hb, hleft⟩ := ihl (r := r.advance) (by omega)
      exact ⟨b, r', hwalk, List.mem_append_left _ hb, by omega⟩
    · obtain ⟨b, r', hwalk, hb, hleft⟩ := ihr (r := r.advance) (by omega)
      exact ⟨b, r', hwalk, List.mem_append_right _ hb, by omega⟩

/-- A symbol of a tree of n leaves takes at most n bits, whatever they are. -/
theorem huffmanSymbol_completes {root : HuffTree} {r : BitReader} (h : root.leaves.length ≤ r.rest.length) :
    ∃ b r', huffmanSymbol root r = .ok (b, r') ∧ b ∈ root.leaves.map Prod.fst ∧
      r.rest.length ≤ r'.rest.length + root.leaves.length := by
  cases root with
  | leaf s f i =>
    obtain ⟨c, bs, hrest⟩ := List.exists_cons_of_length_pos h
    obtain ⟨hread, hadvance⟩ := read_of_rest_cons hrest
    refine ⟨s, r.advance, by rw [huffmanSymbol, hread], List.mem_singleton.mpr rfl, ?_⟩
    rw [hrest, hadvance]
    exact Nat.le_refl _
  | node f i l rt =>
    obtain ⟨b, r', hwalk, hb, hlen⟩ := walk_reaches (Nat.le_succ_of_le h)
    exact ⟨b, r', hwalk, hb, by omega⟩

/-! ## All symbols (R131 to R133) -/

/-- T symbols of a tree of n leaves take at most T·n bits, whatever they are. -/
theorem huffmanSymbols_completes {root : HuffTree} {n : Nat} {r : BitReader}
    (h : n * root.leaves.length ≤ r.rest.length) :
    ∃ out r', huffmanSymbols root n r = .ok (out, r') ∧ out.length = n ∧ ∀ b ∈ out, b ∈ root.leaves.map Prod.fst := by
  induction n generalizing r with
  | zero => exact ⟨[], r, rfl, rfl, nofun⟩
  | succ n ih =>
    rw [Nat.succ_mul] at h
    obtain ⟨b, r', hb, hmem, hlen⟩ := huffmanSymbol_completes (root := root) (r := r) (by omega)
    obtain ⟨out, r'', hout, hcount, hall⟩ := ih (r := r') (by omega)
    exact ⟨b :: out, r'', by rw [huffmanSymbols, hb]; simp only [hout], congrArg (· + 1) hcount,
      List.forall_mem_cons.mpr ⟨hmem, hall⟩⟩

section
variable {f i : Nat} {l rt : HuffTree} {code : Byte → Bits} {d : List Byte}

/-- Bits that begin with the codewords of `d` give `d`. -/
theorem huffmanSymbols_of_codewords {r : BitReader} (hcode : ∀ b ∈ d, (HuffTree.node f i l rt).Leads (code b) b)
    (hr : d.flatMap code <+: r.rest) : ∃ r', huffmanSymbols (.node f i l rt) d.length r = .ok (d, r') := by
  induction d generalizing r with
  | nil => exact ⟨r, rfl⟩
  | cons b d ih =>
    obtain ⟨hb, hd⟩ := List.forall_mem_cons.mp hcode
    obtain ⟨bs, hr⟩ := hr
    rw [List.flatMap_cons, List.append_assoc] at hr
    obtain ⟨r', hwalk, hrest⟩ := walk_of_leads hb hr.symm
    obtain ⟨r'', hout⟩ := ih hd ⟨bs, hrest.symm⟩
    exact ⟨r'', by simp only [List.length_cons, huffmanSymbols, huffmanSymbol, hwalk, hout]⟩

/-- Bits that stop inside the codewords of `d` are TRUNCATED. -/
theorem huffmanSymbols_truncated {r : BitReader} (hcode : ∀ b ∈ d, (HuffTree.node f i l rt).Leads (code b) b)
    (hr : r.rest <+: d.flatMap code) (hlt : r.rest.length < (d.flatMap code).length) :
    huffmanSymbols (.node f i l rt) d.length r = .error .truncated := by
  induction d generalizing r with
  | nil => cases hlt
  | cons b d ih =>
    obtain ⟨hb, hd⟩ := List.forall_mem_cons.mp hcode
    rw [List.flatMap_cons] at hr hlt
    rw [List.length_cons, huffmanSymbols, huffmanSymbol]
    rcases Nat.lt_or_ge r.rest.length (code b).length with hshort | hlong
    · have hpre := List.prefix_of_prefix_length_le hr (List.prefix_append _ _) (Nat.le_of_lt hshort)
      rw [walk_truncated hb hpre hshort]
    · obtain ⟨bs, hrest⟩ := List.prefix_of_prefix_length_le (List.prefix_append _ _) hr hlong
      obtain ⟨r', hwalk, hrest'⟩ := walk_of_leads hb hrest.symm
      rw [← hrest, List.prefix_append_right_inj, ← hrest'] at hr
      rw [← hrest, List.length_append, List.length_append, Nat.add_lt_add_iff_left, ← hrest'] at hlt
      rw [hwalk]
      simp only [ih hd hr hlt]

end

/-- With a root that is a leaf each symbol takes one bit, and fewer bits than symbols are TRUNCATED (R127, R132). -/
theorem huffmanSymbols_leaf_truncated {s : Byte} {f i n : Nat} {r : BitReader} (h : r.rest.length < n) :
    huffmanSymbols (.leaf s f i) n r = .error .truncated := by
  induction n generalizing r with
  | zero => cases h
  | succ n ih =>
    rw [huffmanSymbols, huffmanSymbol]
    cases hrest : r.rest with
    | nil => rw [read_of_rest_nil hrest]
    | cons c bs =>
      obtain ⟨hread, hadvance⟩ := read_of_rest_cons hrest
      rw [hrest, List.length_cons, ← hadvance] at h
      rw [hread]
      simp only [ih (Nat.lt_of_succ_lt_succ h)]

/-! ## Payloads of a model (R131, R132) -/

/-- A payload of `nBits` bits agrees with the codewords of `d` as far as both go; with one symbol any bits do (R127). -/
def PayloadAgrees (m : FreqModel) (d payload : List Byte) (nBits : Nat) : Prop :=
  2 ≤ m.length → ∀ (k : Nat) (hk : k < (d.flatMap (codeOf (codesOfModel m))).length), k < nBits →
    streamBit payload k = (d.flatMap (codeOf (codesOfModel m)))[k]

section
variable {m : FreqModel} {root : HuffTree} {d payload : List Byte} {n : Nat}

/-- A list of symbols of a one-symbol model repeats that symbol, and its codewords have one bit for each (R127). -/
theorem codewords_singleton {s : Byte} {f : Nat} (hd : ∀ b ∈ d, b ∈ [(s, f)].map Prod.fst) :
    d = List.replicate d.length s ∧ (d.flatMap (codeOf (codesOfModel [(s, f)]))).length = d.length := by
  have hd' : d = List.replicate d.length s :=
    List.eq_replicate_iff.mpr ⟨rfl, fun b hb => List.mem_singleton.mp (hd b hb)⟩
  refine ⟨hd', ?_⟩
  rw [hd', codesOfModel_singleton, List.flatMap_replicate]
  simp [codeOf]

/-- In a tree whose root is a node the codewords of the model's symbols lead to their leaves. -/
theorem leads_codeOf {f i : Nat} {l r : HuffTree} (ht : buildTree m = some (.node f i l r))
    (hd : ∀ b ∈ d, b ∈ m.map Prod.fst) :
    ∀ b ∈ d, (HuffTree.node f i l r).Leads (codeOf (codesOfModel m) b) b := fun b hb =>
  leads_of_mem_codesOfModel ht _ (mem_codeOf_codesOfModel (hd b hb))

/-- A payload that is long enough for the codewords of `d` gives `d`. -/
theorem huffmanSymbols_payload (ht : buildTree m = some root) (hd : ∀ b ∈ d, b ∈ m.map Prod.fst)
    (hlen : (d.flatMap (codeOf (codesOfModel m))).length ≤ n) (hbits : PayloadAgrees m d payload n) :
    ∃ r, huffmanSymbols root d.length (BitReader.start payload n) = .ok (d, r) := by
  cases root with
  | leaf s f i =>
    obtain rfl := buildTree_leaf ht
    obtain ⟨hrep, hcount⟩ := codewords_singleton hd
    rw [hcount] at hlen
    obtain ⟨out, r, hout, hlength, hall⟩ := huffmanSymbols_completes (root := .leaf s f i) (n := d.length)
      (r := BitReader.start payload n) (by simpa [HuffTree.leaves] using hlen)
    have hd' : out = List.replicate d.length s :=
      List.eq_replicate_iff.mpr ⟨hlength, fun b hb => List.mem_singleton.mp (hall b hb)⟩
    exact ⟨r, by rw [hout, hd', ← hrep]⟩
  | node f i l r =>
    exact huffmanSymbols_of_codewords (leads_codeOf ht hd)
      ((rest_start_prefix (hbits (two_le_length_of_buildTree_node ht))).1 hlen)

/-- A payload that stops inside the codewords of `d` is TRUNCATED. -/
theorem huffmanSymbols_payload_truncated (ht : buildTree m = some root) (hd : ∀ b ∈ d, b ∈ m.map Prod.fst)
    (hlen : n < (d.flatMap (codeOf (codesOfModel m))).length) (hbits : PayloadAgrees m d payload n) :
    huffmanSymbols root d.length (BitReader.start payload n) = .error .truncated := by
  cases root with
  | leaf s f i =>
    obtain rfl := buildTree_leaf ht
    rw [(codewords_singleton hd).2] at hlen
    exact huffmanSymbols_leaf_truncated (by rwa [length_rest_start])
  | node f i l r =>
    exact huffmanSymbols_truncated (leads_codeOf ht hd)
      ((rest_start_prefix (hbits (two_le_length_of_buildTree_node ht))).2 (Nat.le_of_lt hlen))
      (by rwa [length_rest_start])

end

/-! ## The body of HDEC (R131, R132) -/

section
variable {src d : List Byte} {dc : Nat} {h : Header}

/-- A header that parses is that of the empty model, or has a tree with the model's records as its leaves. -/
theorem header_tree (hp : parseHeader src false = .ok h) :
    (h.model = [] ∧ h.total = 0) ∨ ∃ root, buildTree h.model = some root ∧ root.leaves.Perm h.model := by
  obtain ⟨_, htotal, _⟩ := parseHeader_ok hp
  by_cases hne : h.model = []
  · exact .inl ⟨hne, by rw [htotal, hne]; rfl⟩
  · obtain ⟨root, ht, hleaves, -, -⟩ := buildTree_eq_some hne
    exact .inr ⟨root, ht, hleaves⟩

section
variable {root : HuffTree} (hp : parseHeader src false = .ok h) (hdc : h.total ≤ dc)
  (ht : buildTree h.model = some root)
include hp hdc ht

/-- HDEC's body returns what the loop of R131 gives on the tree of the header's model. -/
theorem bodyHdec_of_symbols {out : List Byte} {r : BitReader}
    (hrun : huffmanSymbols root h.total (BitReader.start h.payload h.nBits) = .ok (out, r)) :
    ∃ w, bodyHdec src dc = .ok ⟨out, h.total, w⟩ :=
  ⟨{ treeWork h.model with readIndex := r.pos }, by simp only [bodyHdec, hp, if_neg (Nat.not_lt.mpr hdc), ht, hrun]⟩

/-- HDEC's body ends with the error of the loop of R131. -/
theorem bodyHdec_of_symbolsError {e : ErrCode}
    (hrun : huffmanSymbols root h.total (BitReader.start h.payload h.nBits) = .error e) :
    bodyHdec src dc = .error e := by
  simp only [bodyHdec, hp, if_neg (Nat.not_lt.mpr hdc), ht, hrun]

end

/-- HDEC's body makes nothing of a header of the empty model. -/
theorem bodyHdec_of_nil (hp : parseHeader src false = .ok h) (hm : h.model = []) (htotal : h.total = 0) :
    ∃ w, bodyHdec src dc = .ok ⟨[], h.total, w⟩ := by
  obtain ⟨m, t, payload, n⟩ := h
  simp only at hm htotal
  subst hm htotal
  exact ⟨_, bodyHdec_emptyModel dc hp⟩

/-- HDEC's body completes on T·n bits of any value, with symbols of the model. -/
theorem bodyHdec_completes (hp : parseHeader src false = .ok h) (hdc : h.total ≤ dc)
    (hlen : h.total * h.model.length ≤ h.nBits) :
    ∃ out w, out.length = h.total ∧ (∀ b ∈ out, b ∈ h.model.map Prod.fst) ∧
      bodyHdec src dc = .ok ⟨out, h.total, w⟩ := by
  rcases header_tree hp with ⟨hm, htotal⟩ | ⟨root, ht, hleaves⟩
  · obtain ⟨w, hbody⟩ := bodyHdec_of_nil (dc := dc) hp hm htotal
    exact ⟨[], w, htotal.symm, nofun, hbody⟩
  · obtain ⟨out, r, hrun, hcount, hall⟩ := huffmanSymbols_completes (root := root) (n := h.total)
      (r := BitReader.start h.payload h.nBits) (by rwa [length_rest_start, hleaves.length_eq])
    obtain ⟨w, hbody⟩ := bodyHdec_of_symbols hp hdc ht hrun
    exact ⟨out, w, hcount, fun b hb => (hleaves.map Prod.fst).subset (hall b hb), hbody⟩

/-- HDEC's body gives `d` for a payload that begins with the codewords of `d`. -/
theorem bodyHdec_of_codewords (hp : parseHeader src false = .ok h) (hdc : h.total ≤ dc) (hcount : d.length = h.total)
    (hd : ∀ b ∈ d, b ∈ h.model.map Prod.fst) (hlen : (d.flatMap (codeOf (codesOfModel h.model))).length ≤ h.nBits)
    (hbits : PayloadAgrees h.model d h.payload h.nBits) : ∃ w, bodyHdec src dc = .ok ⟨d, h.total, w⟩ := by
  rcases header_tree hp with ⟨hm, htotal⟩ | ⟨root, ht, _⟩
  · obtain rfl := List.eq_nil_of_length_eq_zero (hcount.trans htotal)
    exact bodyHdec_of_nil hp hm htotal
  · obtain ⟨r, hrun⟩ := huffmanSymbols_payload ht hd hlen hbits
    rw [hcount] at hrun
    exact bodyHdec_of_symbols hp hdc ht hrun

/-- HDEC's body ends with TRUNCATED for a payload that stops inside the codewords of `d`. -/
theorem bodyHdec_truncated (hp : parseHeader src false = .ok h) (hdc : h.total ≤ dc) (hcount : d.length = h.total)
    (hd : ∀ b ∈ d, b ∈ h.model.map Prod.fst) (hlen : h.nBits < (d.flatMap (codeOf (codesOfModel h.model))).length)
    (hbits : PayloadAgrees h.model d h.payload h.nBits) : bodyHdec src dc = .error .truncated := by
  rcases header_tree hp with ⟨_, htotal⟩ | ⟨root, ht, _⟩
  · obtain rfl := List.eq_nil_of_length_eq_zero (hcount.trans htotal)
    cases hlen
  · have hrun := huffmanSymbols_payload_truncated ht hd hlen hbits
    rw [hcount] at hrun
    exact bodyHdec_of_symbolsError hp hdc ht hrun

end

/-! ## Blocks of an input (R130, R136) -/

/-- An input's header, packed bits and further bytes parse to the input's model and those bits, with the bits of the
further bytes after them. -/
theorem parseHeader_block {d : List Byte} (bits : Bits) (extra : List Byte) (hd : d.length ≤ 0x3FFFFFFF) :
    parseHeader (serializeModel (buildModel d) ++
        BitVec.ofNat 8 (padOf bits.length) :: (packBits bits ++ extra)) false =
      .ok ⟨buildModel d, d.length, packBits bits ++ extra, bits.length + 8 * extra.length⟩ := by
  have hpacked := length_packBits_mul_eight bits
  have hempty : packBits bits ++ extra = [] → padOf bits.length = 0 := by
    intro hnil
    rw [(List.append_eq_nil_iff.mp hnil).1, List.length_nil] at hpacked
    omega
  have hcount : 8 * (packBits bits ++ extra).length - padOf bits.length = bits.length + 8 * extra.length := by
    rw [List.length_append]
    omega
  have hparse := headerParsesBack (buildModel d) false (padOf bits.length) (packBits bits ++ extra) (buildModel_wf hd)
    (padOf_le _) hempty
  rwa [hcount, total_buildModel, if_neg nofun, List.append_nil] at hparse

/-- Bytes after a stream leave the stream's bits as they are. -/
theorem streamBit_append {bs : List Byte} (extra : List Byte) {k : Nat} (h : k < 8 * bs.length) :
    streamBit (bs ++ extra) k = streamBit bs k := by
  rw [streamBit, streamBit, List.getD_append _ _ _ _ (by omega)]

/-- The packed bits, and whatever follows them, agree with the bits. -/
theorem streamBit_packBits_append (bits : Bits) (extra : List Byte) {k : Nat} (h : k < bits.length) :
    streamBit (packBits bits ++ extra) k = bits[k] := by
  have hpacked := length_packBits_mul_eight bits
  rw [streamBit_append extra (by omega), streamBit_packBits bits k h]

/-- Every symbol of an input is one of its model's. -/
theorem mem_symbols_buildModel {d : List Byte} : ∀ b ∈ d, b ∈ (buildModel d).map Prod.fst :=
  fun _ hb => List.mem_map_of_mem (mem_buildModel hb)

/-- HDEC's body gives `d` for the block of `d`, whatever bytes follow it. -/
theorem bodyHdec_huffmanBlock {d : List Byte} (extra : List Byte) {dc : Nat} (hd : d.length ≤ 0x3FFFFFFF)
    (hdc : d.length ≤ dc) : ∃ w, bodyHdec (huffmanBlock d ++ extra) dc = .ok ⟨d, d.length, w⟩ := by
  have hparse := parseHeader_block (huffmanBits d) extra hd
  have hblock : huffmanBlock d ++ extra = serializeModel (buildModel d) ++
      BitVec.ofNat 8 (padOf (huffmanBits d).length) :: (packBits (huffmanBits d) ++ extra) := by
    rw [huffmanBlock, List.append_assoc, List.cons_append]
  rw [← hblock] at hparse
  exact bodyHdec_of_codewords hparse hdc rfl mem_symbols_buildModel (Nat.le_add_right _ _)
    fun _ k hk _ => streamBit_packBits_append (huffmanBits d) extra hk

/-- Settles O44: the block of the input, with nothing after it, gives the input back. -/
theorem huffmanRoundTrip : Obligations.HuffmanRoundTrip := by
  intro d dc dc' hd hdc
  obtain ⟨w, hblock⟩ := bodyHenc_eq d dc
  obtain ⟨w', hback⟩ := bodyHdec_huffmanBlock [] hd hdc
  rw [List.append_nil] at hback
  exact ⟨huffmanBlock d, w, w', hblock, hback⟩

/-! ## HDEC completes, or ends with TRUNCATED -/

/-- Settles O54: the body gives the input back, and the window takes it. -/
theorem hdecRestoresTheInput : Obligations.HdecRestoresTheInput := by
  intro s r d block extra w ha hd hblock hsource ht
  obtain ⟨_, hblock'⟩ := bodyHenc_eq d 0
  obtain ⟨rfl, -⟩ := BodyOut.mk.inj (Except.ok.inj (hblock.symm.trans hblock'))
  obtain ⟨w', hback⟩ := bodyHdec_huffmanBlock extra hd ht.1
  rw [← hsource] at hback
  exact ⟨w', exec_takes ha hback ht⟩

/-- Settles O55: on T·n bits every walk reaches a leaf; the codewords of `d` lead to the leaves of `d`. -/
theorem hdecCompletesOnAnyPayload : Obligations.HdecCompletesOnAnyPayload := by
  intro s r h ha hp ht
  refine ⟨fun hlen => ?_, fun d hcount hd hlen hbits => ?_⟩
  · obtain ⟨out, w, hcount, hall, hbody⟩ := bodyHdec_completes hp ht.1 hlen
    exact ⟨out, w, hcount, hall, exec_takes ha hbody (hcount.symm ▸ ht)⟩
  · obtain ⟨w, hbody⟩ := bodyHdec_of_codewords hp ht.1 hcount hd hlen fun htwo k hk _ => hbits htwo k hk
    exact ⟨w, exec_takes ha hbody (hcount.symm ▸ ht)⟩

/-- HDEC's body ends with TRUNCATED for the block of an input whose payload is cut after `k` bits. -/
theorem bodyHdec_cutBlock {d : List Byte} {k dc : Nat} (hd : d.length ≤ 0x3FFFFFFF) (hdc : d.length ≤ dc)
    (hk : k < (huffmanBits d).length) :
    bodyHdec (serializeModel (buildModel d) ++ BitVec.ofNat 8 (padOf k) :: packBits ((huffmanBits d).take k)) dc =
      .error .truncated := by
  have hcut : ((huffmanBits d).take k).length = k := List.length_take_of_le (Nat.le_of_lt hk)
  have hparse := parseHeader_block ((huffmanBits d).take k) [] hd
  rw [hcut, List.append_nil, List.length_nil, Nat.mul_zero, Nat.add_zero] at hparse
  refine bodyHdec_truncated hparse hdc rfl mem_symbols_buildModel hk fun _ j _ hj => ?_
  exact (streamBit_packBits _ j (by rwa [hcut])).trans (List.getElem_take ..)

/-- Settles O56: the body's error ends the command, for a block that is cut and for any payload that stops early. -/
theorem hdecTruncatedPayload : Obligations.HdecTruncatedPayload := by
  refine ⟨fun s r d k ha hd hk hdc hsource => ⟨exec_bodyError ha ?_, endWithError_failedWith s r .truncated⟩,
    fun s r h d ha hp hdc hcount hd hlen hbits =>
      ⟨exec_bodyError ha (bodyHdec_truncated hp hdc hcount hd hlen hbits), endWithError_failedWith s r .truncated⟩⟩
  rw [hsource]
  exact bodyHdec_cutBlock hd hdc hk

end Sys2Proof.Machine
end

section
/-! # The arithmetic decoder's bit source: what a run of the decoder reads (R159, R160, R162) -/

namespace Sys2Proof.Machine

/-! ## The bit source (R159) -/

/-- The bit at stream index `k`: the payload's bits, and zeros from N_bits on. -/
def BitReader.bitAt (r : BitReader) (k : Nat) : Bool := decide (k < r.nBits) && streamBit r.payload k

/-- The reader with `k` more bits read. -/
def BitReader.skip (r : BitReader) (k : Nat) : BitReader := { r with pos := r.pos + k }

/-- The bit source gives `k` more bits: it ends P − 2 bits past the payload's. -/
abbrev BitReader.Has (r : BitReader) (k : Nat) : Prop := k = 0 ∨ r.pos + k ≤ r.nBits + 30

@[simp] theorem bitAt_skip (r : BitReader) (k : Nat) : (r.skip k).bitAt = r.bitAt := rfl

@[simp] theorem skip_zero (r : BitReader) : r.skip 0 = r := rfl

theorem skip_add (r : BitReader) (k l : Nat) : r.skip (k + l) = (r.skip k).skip l := by
  simp only [BitReader.skip, Nat.add_assoc]

theorem has_add (r : BitReader) (k l : Nat) : r.Has (k + l) ↔ r.Has k ∧ (r.skip k).Has l := by
  simp only [BitReader.Has, BitReader.skip]
  omega

/-- BitIn gives the next bit of the source, or is TRUNCATED at its end. -/
theorem bitIn_eq (r : BitReader) : r.bitIn = if r.Has 1 then .ok (r.bitAt r.pos, r.skip 1) else .error .truncated := by
  unfold BitReader.bitIn Config.codeBits BitReader.bitAt
  by_cases hpayload : r.pos < r.nBits
  · rw [if_pos hpayload, if_pos (.inr (by omega)), decide_eq_true hpayload, Bool.true_and]
    rfl
  · by_cases hzeros : r.pos < r.nBits + 30
    · rw [if_neg hpayload, if_pos hzeros, if_pos (.inr hzeros), decide_eq_false hpayload, Bool.false_and]
      rfl
    · rw [if_neg hpayload, if_neg hzeros, if_neg (by simp only [BitReader.Has]; omega)]

/-! ## Runs that read from the source -/

section
variable {α β : Type} {lo hi lo' hi' : Nat} {f : BitReader → Except ErrCode (α × BitReader)}

/-- What `f` reads depends only on the source's bits and the index it begins at: `lo` to `hi` bits, and with fewer left
it is TRUNCATED. -/
def Reads (lo hi : Nat) (f : BitReader → Except ErrCode (α × BitReader)) : Prop :=
  ∀ (bits : Nat → Bool) (i : Nat), ∃ a k, lo ≤ k ∧ k ≤ hi ∧ ∀ r : BitReader, r.bitAt = bits → r.pos = i →
    f r = if r.Has k then .ok (a, r.skip k) else .error .truncated

theorem reads_bitIn : Reads 1 1 BitReader.bitIn := fun bits i =>
  ⟨bits i, 1, Nat.le_refl _, Nat.le_refl _, fun r hbits hpos => by rw [bitIn_eq, ← hbits, ← hpos]⟩

theorem Reads.pure (a : α) : Reads 0 0 fun r => .ok (a, r) := fun _ _ =>
  ⟨a, 0, Nat.le_refl _, Nat.le_refl _, fun _ _ _ => (if_pos (.inl rfl)).symm⟩

/-- A run that goes on with another reads what both read. -/
theorem Reads.bind (hf : Reads lo hi f) {g : α → BitReader → Except ErrCode (β × BitReader)}
    (hg : ∀ a, Reads lo' hi' (g a)) : Reads (lo + lo') (hi + hi') fun r => (f r).bind fun p => g p.1 p.2 := by
  intro bits i
  obtain ⟨a, k, hlo, hhi, hfrun⟩ := hf bits i
  obtain ⟨b, l, hlo', hhi', hgrun⟩ := hg a bits (i + k)
  refine ⟨b, k + l, by omega, by omega, fun r hbits hpos => ?_⟩
  have hrest := hgrun (r.skip k) hbits (congrArg (· + k) hpos)
  simp only [hfrun r hbits hpos, has_add, skip_add]
  by_cases hk : r.Has k
  · rw [if_pos hk]
    simp only [hk, true_and]
    exact hrest
  · rw [if_neg hk, if_neg fun h => hk h.1]
    rfl

/-- What becomes of the run's result reads nothing. -/
theorem Reads.map (hf : Reads lo hi f) (g : α → β) : Reads lo hi fun r => (f r).bind fun p => .ok (g p.1, p.2) :=
  hf.bind fun a => Reads.pure (g a)

theorem Reads.mono (hf : Reads lo hi f) (hlo : lo' ≤ lo) (hhi : hi ≤ hi') : Reads lo' hi' f := by
  intro bits i
  obtain ⟨a, k, hk, hk', hrun⟩ := hf bits i
  exact ⟨a, k, by omega, by omega, hrun⟩

/-- A run that succeeds has read bits that the source gives. -/
theorem Reads.of_ok (hf : Reads lo hi f) {r r' : BitReader} {a : α} (h : f r = .ok (a, r')) :
    ∃ k, lo ≤ k ∧ k ≤ hi ∧ r.Has k ∧ r' = r.skip k := by
  obtain ⟨b, k, hlo, hhi, hrun⟩ := hf r.bitAt r.pos
  rw [hrun r rfl rfl] at h
  split at h
  · cases h
    exact ⟨k, hlo, hhi, ‹_›, rfl⟩
  · cases h

/-- With as many bits as it may need the run succeeds. -/
theorem Reads.completes (hf : Reads lo hi f) {r : BitReader} (hr : r.Has hi) :
    ∃ a k, lo ≤ k ∧ k ≤ hi ∧ f r = .ok (a, r.skip k) := by
  obtain ⟨a, k, hlo, hhi, hrun⟩ := hf r.bitAt r.pos
  refine ⟨a, k, hlo, hhi, (hrun r rfl rfl).trans (if_pos ?_)⟩
  simp only [BitReader.Has] at hr ⊢
  omega

end

/-! ## The decoder's parts as such runs -/

/-- One more bit in `value` (R160, R162). -/
def Coder.push (c : Coder) (b : Bool) : Coder := { c with value := 2 * c.value + b.toNat }

theorem decodeInit_succ (n : Nat) (c : Coder) :
    decodeInit (n + 1) c = fun r => r.bitIn.bind fun p => decodeInit n (c.push p.1) p.2 := by
  funext r
  rw [decodeInit, Coder.shiftIn]
  cases r.bitIn <;> rfl

theorem decodeRenorm_succ {c : Coder} (n : Nat) (ha : c.arm ≠ .exit) :
    decodeRenorm (n + 1) c = fun r => r.bitIn.bind fun p => decodeRenorm n (c.decodeShift.push p.1) p.2 := by
  funext r
  rw [decodeRenorm]
  split
  · exact absurd ‹_› ha
  · rw [Coder.shiftIn]
    cases r.bitIn <;> rfl

/-- The loop of R163 with its symbols and registers as one result. -/
def symbolsRun (t : Nat) (e0 : PartEntry) (es : List PartEntry) (n : Nat) (c : Coder) (r : BitReader) :
    Except ErrCode ((List Byte × Coder) × BitReader) :=
  (arithmeticSymbols t e0 es n c r).bind fun x => .ok ((x.1, x.2.1), x.2.2)

theorem symbolsRun_ok_iff {t n : Nat} {e0 : PartEntry} {es : List PartEntry} {c c' : Coder} {r r' : BitReader}
    {out : List Byte} :
    symbolsRun t e0 es n c r = .ok ((out, c'), r') ↔ arithmeticSymbols t e0 es n c r = .ok (out, c', r') := by
  rw [symbolsRun]
  cases arithmeticSymbols t e0 es n c r with
  | error e => exact ⟨nofun, nofun⟩
  | ok x =>
    obtain ⟨out', c1, r1⟩ := x
    simp [Except.bind, and_assoc]

theorem symbolsRun_succ (t : Nat) (e0 : PartEntry) (es : List PartEntry) (n : Nat) (c : Coder) :
    symbolsRun t e0 es (n + 1) c = fun r =>
      (decodeRenorm Config.codeBits (c.narrow t (searchFrom e0 es (c.cum t))) r).bind fun p =>
        (symbolsRun t e0 es n p.1 p.2).bind fun q =>
          .ok (((searchFrom e0 es (c.cum t)).sym :: q.1.1, q.1.2), q.2) := by
  funext r
  simp only [symbolsRun]
  rw [arithmeticSymbols]
  cases decodeRenorm Config.codeBits (c.narrow t (searchFrom e0 es (c.cum t))) r with
  | error e => rfl
  | ok p =>
    simp only [Except.bind]
    cases arithmeticSymbols t e0 es n p.1 p.2 <;> rfl

/-! ## How many bits they read -/

theorem reads_decodeInit (n : Nat) (c : Coder) : Reads n n (decodeInit n c) := by
  induction n generalizing c with
  | zero => exact Reads.pure c
  | succ n ih =>
    rw [decodeInit_succ, Nat.add_comm]
    exact reads_bitIn.bind fun b => ih (c.push b)

/-- Two sets of registers with one interval. -/
def Coder.SameBounds (c c' : Coder) : Prop := c.low = c'.low ∧ c.high = c'.high

theorem arm_of_sameBounds {c c' : Coder} (h : c.SameBounds c') : c.arm = c'.arm := by
  simp only [Coder.arm, h.1, h.2]

theorem sameBounds_shift {c c' : Coder} (h : c.SameBounds c') : (c.shift c.arm).SameBounds (c'.shift c'.arm) := by
  rw [arm_of_sameBounds h]
  simp only [Coder.SameBounds, Coder.shift, h.1, h.2, and_self]

theorem sameBounds_narrow {c c' : Coder} (t : Nat) (e : PartEntry) (h : c.SameBounds c') :
    (c.narrow t e).SameBounds (c'.narrow t e) := by
  simp only [Coder.SameBounds, Coder.narrow, h.1, h.2, and_self]

theorem renormPasses_exit {c : Coder} (n : Nat) (ha : c.arm = .exit) : renormPasses (n + 1) c = 0 := by
  simp only [renormPasses, ha]

theorem renormPasses_pass {c : Coder} (n : Nat) (ha : c.arm ≠ .exit) :
    renormPasses (n + 1) c = 1 + renormPasses n (c.shift c.arm) := by
  rw [renormPasses]
  split
  · exact absurd ‹_› ha
  · rfl

theorem renormPasses_le (n : Nat) (c : Coder) : renormPasses n c ≤ n := by
  induction n generalizing c with
  | zero => exact Nat.le_refl _
  | succ n ih =>
    by_cases ha : c.arm = .exit
    · rw [renormPasses_exit n ha]
      exact Nat.zero_le _
    · rw [renormPasses_pass n ha, Nat.add_comm]
      exact Nat.succ_le_succ (ih _)

/-- The interval alone decides how many passes the loop makes (R154). -/
theorem renormPasses_of_sameBounds {c c' : Coder} (n : Nat) (h : c.SameBounds c') :
    renormPasses n c = renormPasses n c' := by
  induction n generalizing c c' with
  | zero => rfl
  | succ n ih =>
    have harm := arm_of_sameBounds h
    by_cases ha : c.arm = .exit
    · rw [renormPasses_exit n ha, renormPasses_exit n (harm ▸ ha)]
    · rw [renormPasses_pass n ha, renormPasses_pass n (harm ▸ ha), ih (sameBounds_shift h)]

/-- The decoder's loop reads a bit in each pass (R162). -/
theorem reads_decodeRenorm (n : Nat) (c : Coder) : Reads (renormPasses n c) (renormPasses n c) (decodeRenorm n c) := by
  induction n generalizing c with
  | zero => exact Reads.pure c
  | succ n ih =>
    by_cases ha : c.arm = .exit
    · have hexit : decodeRenorm (n + 1) c = fun r => .ok (c, r) := funext fun r => decodeRenorm_exit n r ha
      rw [renormPasses_exit n ha, hexit]
      exact Reads.pure c
    · rw [renormPasses_pass n ha, decodeRenorm_succ n ha]
      refine reads_bitIn.bind (g := fun b => decodeRenorm n (c.decodeShift.push b)) fun b => ?_
      rw [renormPasses_of_sameBounds (c := c.shift c.arm) (c' := c.decodeShift.push b) n ⟨rfl, rfl⟩]
      exact ih _

/-- A symbol takes at most P bits (log 16). -/
theorem reads_symbolsRun (t : Nat) (e0 : PartEntry) (es : List PartEntry) (n : Nat) (c : Coder) :
    Reads 0 (32 * n) (symbolsRun t e0 es n c) := by
  induction n generalizing c with
  | zero => exact Reads.pure ([], c)
  | succ n ih =>
    rw [symbolsRun_succ, Nat.mul_succ, Nat.add_comm]
    exact (reads_decodeRenorm _ _).mono (Nat.zero_le _) (renormPasses_le _ _) |>.bind fun c1 => (ih c1).map fun q =>
      ((searchFrom e0 es (c.cum t)).sym :: q.1, q.2)

end Sys2Proof.Machine
end

section
/-! # The arithmetic coder's interval: the loop ends, the search succeeds, and encoder and decoder move alike (R153 to
R156, R161 to R166) -/

namespace Sys2Proof.Machine

/-! ## The encoder's loop (R154) -/

/-- A pass of the encoder's loop: what its arm emits or defers, then the shift. -/
def encodePass (st : Coder × BitWriter) : Coder × BitWriter :=
  ((encodeArm st.1.arm st.1 st.2).1.shift st.1.arm, (encodeArm st.1.arm st.1 st.2).2)

theorem encodeRenorm_succ {st : Coder × BitWriter} (n : Nat) (ha : st.1.arm ≠ .exit) :
    encodeRenorm (n + 1) st = encodeRenorm n (encodePass st) := encodeRenorm_pass n st.2 ha

theorem encodeRenorm_stays {st : Coder × BitWriter} (n : Nat) (ha : st.1.arm = .exit) : encodeRenorm n st = st := by
  cases n with
  | zero => rfl
  | succ n => exact encodeRenorm_exit n st.2 ha

/-- A pass moves the bounds as the shift alone does. -/
theorem sameBounds_encodePass (st : Coder × BitWriter) : (encodePass st).1.SameBounds (st.1.shift st.1.arm) := by
  rw [encodePass, encodeArm_coder]
  exact ⟨rfl, rfl⟩

theorem inside_of_sameBounds {c c' : Coder} (h : c.SameBounds c') (hc : c'.Inside) : c.Inside :=
  ⟨h.1 ▸ h.2 ▸ hc.ordered, h.2 ▸ hc.bounded⟩

theorem widensIn_of_sameBounds {n : Nat} {c c' : Coder} (h : c.SameBounds c') (hc : c'.WidensIn n) : c.WidensIn n := by
  rwa [Coder.WidensIn, h.1, h.2]

theorem inside_encodePass {st : Coder × BitWriter} (hc : st.1.Inside) (ha : st.1.arm ≠ .exit) :
    (encodePass st).1.Inside :=
  inside_of_sameBounds (sameBounds_encodePass st) (inside_shift hc ha).1

/-- The whole range is an interval that no arm applies to. -/
theorem arm_of_widensIn_zero {c : Coder} (hc : c.Inside) (h : c.WidensIn 0) : c.arm = .exit := by
  obtain ⟨_, hbnd⟩ := hc
  unfold Coder.WidensIn at h
  have hhalf : half = 2 ^ 31 := rfl
  have hqtr : qtr = 2 ^ 30 := rfl
  rw [Coder.arm, if_neg (by omega), if_neg (by omega), if_neg (by omega)]

/-- The encoder's loop ends where no arm applies. -/
theorem encodeRenorm_arm {n : Nat} {st : Coder × BitWriter} (hc : st.1.Inside) (hn : st.1.WidensIn n) :
    (encodeRenorm n st).1.arm = .exit := by
  induction n generalizing st with
  | zero => exact arm_of_widensIn_zero hc hn
  | succ n ih =>
    by_cases ha : st.1.arm = .exit
    · rwa [encodeRenorm_stays _ ha]
    · rw [encodeRenorm_succ n ha]
      exact ih (inside_encodePass hc ha) (widensIn_of_sameBounds (sameBounds_encodePass st) (widensIn_shift hc ha hn))

/-! ## Narrowing (R153, R165) -/

/-- Narrowing gives a part of the interval. -/
theorem narrow_within {c : Coder} {e : PartEntry} {t : Nat} (hc : c.low ≤ c.high) (he : e.cumHigh ≤ t) :
    c.low ≤ (c.narrow t e).low ∧ (c.narrow t e).high ≤ c.high := by
  have hle := scaled_le (range := c.high - c.low + 1) he
  exact ⟨Nat.le_add_right _ _, by simp only [Coder.narrow]; omega⟩

theorem wide_iff {c : Coder} : c.Wide ↔ c.low ≤ c.high ∧ c.high < 2 ^ 32 ∧ 2 ^ 30 < c.high - c.low + 1 := by
  have hqtr : qtr = 2 ^ 30 := rfl
  constructor
  · rintro ⟨⟨hord, hbnd⟩, hwide⟩
    exact ⟨hord, hbnd, by omega⟩
  · rintro ⟨hord, hbnd, hwide⟩
    exact ⟨⟨hord, hbnd⟩, by omega⟩

theorem wide_of_sameBounds {c c' : Coder} (h : c.SameBounds c') (hc : c'.Wide) : c.Wide := by
  rw [wide_iff, h.1, h.2]
  exact wide_iff.mp hc

/-- Settles O45: each pass doubles the width, so that P passes widen any interval to one that no arm applies to. -/
theorem intervalNeverCollapses : Obligations.IntervalNeverCollapses := by
  refine ⟨fun c w hord hbnd => ?_, fun m c e hm he hord hbnd hwide => ?_⟩
  · have hc : c.Inside := ⟨hord, hbnd⟩
    exact ⟨encodeRenorm_arm (st := (c, w)) hc (widensIn_codeBits c),
      wide_iff.mp (encodeRenorm_wide hc (widensIn_codeBits c)).1⟩
  · have hwithin := partition_within hm e he
    obtain ⟨hlow, hhigh⟩ := narrow_within hord hwithin.below
    exact ⟨hlow, (inside_narrow (wide_iff.mpr ⟨hord, hbnd, hwide⟩) hwithin).ordered, hhigh⟩

/-! ## Encoder and decoder move alike (R162) -/

/-- What a successful run of the decoder's loop does in its first pass. -/
theorem decodeRenorm_pass_ok {n : Nat} {c c' : Coder} {r r' : BitReader} (ha : c.arm ≠ .exit)
    (h : decodeRenorm (n + 1) c r = .ok (c', r')) :
    decodeRenorm n (c.decodeShift.push (r.bitAt r.pos)) (r.skip 1) = .ok (c', r') := by
  rw [decodeRenorm_succ n ha] at h
  simp only [bitIn_eq] at h
  split at h
  · exact h
  · cases h

/-- The decoder's bounds after its loop are the encoder's, whatever the bits are. -/
theorem decodeRenorm_sameBounds {n : Nat} {c c' : Coder} {st : Coder × BitWriter} {r r' : BitReader}
    (hst : c.SameBounds st.1) (h : decodeRenorm n c r = .ok (c', r')) : c'.SameBounds (encodeRenorm n st).1 := by
  induction n generalizing c st r with
  | zero => cases h; exact hst
  | succ n ih =>
    have harm := arm_of_sameBounds hst
    by_cases ha : c.arm = .exit
    · rw [decodeRenorm_exit n r ha] at h
      cases h
      rwa [encodeRenorm_stays _ (harm ▸ ha)]
    · rw [encodeRenorm_succ n (harm ▸ ha)]
      obtain ⟨hlow, hhigh⟩ := sameBounds_shift hst
      obtain ⟨hlow', hhigh'⟩ := sameBounds_encodePass st
      exact ih (c := c.decodeShift.push _) ⟨hlow.trans hlow'.symm, hhigh.trans hhigh'.symm⟩ (decodeRenorm_pass_ok ha h)

/-- Settles O47: both loops make the same passes, and the decoder reads a bit in each. -/
theorem decoderMirrorsEncoder : Obligations.DecoderMirrorsEncoder := by
  intro n c c' w r r' h
  obtain ⟨hlow, hhigh⟩ := decodeRenorm_sameBounds (st := (c, w)) ⟨rfl, rfl⟩ h
  obtain ⟨k, hge, hle, -, rfl⟩ := (reads_decodeRenorm n c).of_ok h
  exact ⟨hlow, hhigh, congrArg (r.pos + ·) (Nat.le_antisymm hle hge)⟩

/-! ## The number of bits the encoder emits (R166) -/

/-- EmitBit appends the bit and the deferred ones (R155). -/
theorem emitBit_bits (b : Bool) (c : Coder) (w : BitWriter) :
    (emitBit b c w).2.bits = w.bits ++ (b :: List.replicate c.pending (!b)) := by
  rw [emitBit, appendAll_bits, BitWriter.append, List.append_assoc, List.singleton_append]

/-- A pass emits a bit or defers one, and emits what was deferred with the next. -/
theorem encodePass_length {st : Coder × BitWriter} (ha : st.1.arm ≠ .exit) :
    (encodePass st).2.bits.length + (encodePass st).1.pending = st.2.bits.length + st.1.pending + 1 := by
  have hemit : ∀ b, (emitBit b st.1 st.2).2.bits.length + 0 = st.2.bits.length + st.1.pending + 1 := fun b => by
    rw [emitBit_bits, List.length_append, List.length_cons, List.length_replicate]
    omega
  unfold encodePass
  cases harm : st.1.arm with
  | lower => exact hemit false
  | upper => exact hemit true
  | middle => exact (Nat.add_assoc _ _ _).symm
  | exit => exact absurd harm ha

theorem encodeRenorm_length (n : Nat) (st : Coder × BitWriter) :
    (encodeRenorm n st).2.bits.length + (encodeRenorm n st).1.pending =
      st.2.bits.length + st.1.pending + renormPasses n st.1 := by
  induction n generalizing st with
  | zero => rfl
  | succ n ih =>
    by_cases ha : st.1.arm = .exit
    · rw [encodeRenorm_stays _ ha, renormPasses_exit n ha]
      rfl
    · rw [encodeRenorm_succ n ha, ih, encodePass_length ha, renormPasses_pass n ha,
        renormPasses_of_sameBounds n (sameBounds_encodePass st)]
      omega

/-- The bounds alone decide how the encoder's bounds move. -/
theorem encodeRenorm_sameBounds {n : Nat} {st st' : Coder × BitWriter} (h : st.1.SameBounds st'.1) :
    (encodeRenorm n st).1.SameBounds (encodeRenorm n st').1 := by
  induction n generalizing st st' with
  | zero => exact h
  | succ n ih =>
    have harm := arm_of_sameBounds h
    by_cases ha : st.1.arm = .exit
    · rwa [encodeRenorm_stays _ ha, encodeRenorm_stays _ (harm ▸ ha)]
    · rw [encodeRenorm_succ n ha, encodeRenorm_succ n (harm ▸ ha)]
      obtain ⟨hlow, hhigh⟩ := sameBounds_encodePass st
      obtain ⟨hlow', hhigh'⟩ := sameBounds_encodePass st'
      obtain ⟨hlow'', hhigh''⟩ := sameBounds_shift h
      exact ih ⟨(hlow.trans hlow'').trans hlow'.symm, (hhigh.trans hhigh'').trans hhigh'.symm⟩

section
variable (t : Nat) (part : List PartEntry)

theorem encodeSymbol_sameBounds {st st' : Coder × BitWriter} (b : Byte) (h : st.1.SameBounds st'.1) :
    (encodeSymbol t part st b).1.SameBounds (encodeSymbol t part st' b).1 :=
  encodeRenorm_sameBounds (sameBounds_narrow t (entryOf part b) h)

/-- The bounds alone decide how many passes an input takes. -/
theorem encodePasses_of_sameBounds {c c' : Coder} (src : List Byte) (h : c.SameBounds c') :
    encodePasses t part c src = encodePasses t part c' src := by
  induction src generalizing c c' with
  | nil => rfl
  | cons b src ih =>
    rw [encodePasses, encodePasses, renormPasses_of_sameBounds _ (sameBounds_narrow t (entryOf part b) h),
      ih (encodeSymbol_sameBounds t part (st := (c, _)) (st' := (c', _)) b h)]

/-- The passes that a symbol takes. -/
def symbolPasses (c : Coder) (b : Byte) : Nat := renormPasses 32 (c.narrow t (entryOf part b))

/-- The passes for an input, whatever bits are written already. -/
theorem encodePasses_cons (st : Coder × BitWriter) (b : Byte) (src : List Byte) :
    encodePasses t part st.1 (b :: src) =
      symbolPasses t part st.1 b + encodePasses t part (encodeSymbol t part st b).1 src := by
  rw [encodePasses]
  exact congrArg (_ + ·) (encodePasses_of_sameBounds t part src (encodeSymbol_sameBounds t part b ⟨rfl, rfl⟩))

theorem encodeSymbols_length (st : Coder × BitWriter) (src : List Byte) :
    (src.foldl (encodeSymbol t part) st).2.bits.length + (src.foldl (encodeSymbol t part) st).1.pending =
      st.2.bits.length + st.1.pending + encodePasses t part st.1 src := by
  induction src generalizing st with
  | nil => rfl
  | cons b src ih =>
    have hsymbol := encodeRenorm_length 32 (st.1.narrow t (entryOf part b), st.2)
    rw [List.foldl_cons, ih, encodePasses_cons, ← Nat.add_assoc]
    exact congrArg (· + _) hsymbol

end

/-- Termination emits two bits more than are deferred (R156). -/
theorem encodeFinish_length (st : Coder × BitWriter) :
    (encodeFinish st).2.bits.length = st.2.bits.length + st.1.pending + 2 := by
  simp only [encodeFinish, emitBit_bits, List.length_append, List.length_cons, List.length_replicate]
  omega

/-- The coder emits two bits more than it makes passes. -/
theorem length_arithmeticWriter (m : FreqModel) (src : List Byte) :
    (arithmeticWriter m src).bits.length = encodePasses m.total (partition m) Coder.start src + 2 := by
  rw [arithmeticWriter, arithmeticEncode, encodeFinish_length, encodeSymbols_length]
  exact congrArg (· + 2) (Nat.zero_add _)

/-- Settles O48: each pass emits or defers a bit, and termination emits the deferred ones and two more. -/
theorem encoderBitBudget : Obligations.EncoderBitBudget := fun src _ _ => length_arithmeticWriter (buildModel src) src

/-! ## The decoder's search (R161, R164) -/

/-- The decoder's `value` lies in its interval. -/
def Coder.Holds (c : Coder) : Prop := c.low ≤ c.value ∧ c.value ≤ c.high

/-- Without its deferred bits such a coder is one of the decoder's, at the start of some payload. -/
theorem decoderHolds_of_holds {c : Coder} (hv : c.Holds) :
    DecoderHolds 0 { c with pending := 0 } (BitReader.start [] 0) :=
  ⟨hv.1, hv.2, rfl, before_start _ _ _⟩

/-- A pass keeps `value` in the interval, whatever the bit is. -/
theorem holds_push {c : Coder} (hc : c.Inside) (ha : c.arm ≠ .exit) (hv : c.Holds) (b : Bool) :
    (c.decodeShift.push b).Holds := by
  obtain ⟨hlow, hhigh⟩ := hv
  have hoff := (arm_offset hc ha).1
  have hb := b.toNat_le
  constructor <;> simp only [Coder.push, Coder.decodeShift, Coder.shift] <;> omega

theorem inside_push {c : Coder} (hc : c.Inside) (ha : c.arm ≠ .exit) (b : Bool) : (c.decodeShift.push b).Inside :=
  inside_of_sameBounds (c' := c.shift c.arm) ⟨rfl, rfl⟩ (inside_shift hc ha).1

theorem decodeRenorm_holds {n : Nat} {c c' : Coder} {r r' : BitReader} (hc : c.Inside) (hv : c.Holds)
    (h : decodeRenorm n c r = .ok (c', r')) : c'.Holds := by
  induction n generalizing c r with
  | zero => cases h; exact hv
  | succ n ih =>
    by_cases ha : c.arm = .exit
    · rw [decodeRenorm_exit n r ha] at h
      cases h
      exact hv
    · exact ih (inside_push hc ha _) (holds_push hc ha hv _) (decodeRenorm_pass_ok ha h)

/-- The decoder's loop ends with a wide interval (R162). -/
theorem decodeRenorm_wide_of_inside {c c' : Coder} {r r' : BitReader} (hc : c.Inside)
    (h : decodeRenorm 32 c r = .ok (c', r')) : c'.Wide :=
  wide_of_sameBounds (decodeRenorm_sameBounds (st := (c, BitWriter.empty)) ⟨rfl, rfl⟩ h)
    (encodeRenorm_wide hc (widensIn_codeBits c)).1

/-- No sub-interval begins before the partition does. -/
theorem le_cumLow_of_mem_partitionFrom {c : Nat} {m : FreqModel} : ∀ e ∈ partitionFrom c m, c ≤ e.cumLow := by
  induction m generalizing c with
  | nil => exact nofun
  | cons p m ih => exact List.forall_mem_cons.mpr ⟨Nat.le_refl _, fun e he => Nat.le_of_add_right_le (ih e he)⟩

/-- The search finds every entry whose sub-interval holds `cum`, so that there is one only. -/
theorem searchFrom_eq {m : FreqModel} {c cum : Nat} {e0 e : PartEntry} {es : List PartEntry}
    (hpart : partitionFrom c m = e0 :: es) (he : e ∈ e0 :: es) (hlo : e.cumLow ≤ cum) (hhi : cum < e.cumHigh) :
    searchFrom e0 es cum = e := by
  induction m generalizing c e0 es with
  | nil => cases hpart
  | cons p m ih =>
    obtain ⟨rfl, rfl⟩ := List.cons.inj hpart
    cases hm : partitionFrom (c + p.2) m with
    | nil =>
      rw [hm, List.mem_singleton] at he
      exact he.symm
    | cons e1 es1 =>
      rw [searchFrom]
      rcases List.mem_cons.mp he with rfl | hrest
      · exact if_pos hhi
      · have hafter := le_cumLow_of_mem_partitionFrom e hrest
        rw [if_neg (Nat.not_lt.mpr (Nat.le_trans hafter hlo))]
        exact ih hm (hm ▸ hrest)

/-- Narrowing keeps `value` inside exactly where the sub-interval holds the scaled value (R161). -/
theorem holds_narrow_iff {t : Nat} {c : Coder} {e : PartEntry} (hc : c.Wide) (hv : c.Holds) (he : e.Within t) :
    (c.narrow t e).Holds ↔ e.cumLow ≤ c.cum t ∧ c.cum t < e.cumHigh := by
  constructor
  · rintro ⟨hlow, hhigh⟩
    have ht : 0 < t := Nat.lt_of_lt_of_le (Nat.zero_lt_of_lt he.nonempty) he.below
    have hpos : 0 < (c.value - c.low + 1) * t := Nat.mul_pos (Nat.succ_pos _) ht
    obtain ⟨_, _, hwide⟩ := wide_iff.mp hc
    have hlow' := hv.1
    have hnonempty := Nat.zero_lt_of_lt
      (scaled_lt (range := c.high - c.low + 1) ht (by have := he.total; omega) he.nonempty)
    simp only [Coder.narrow] at hlow hhigh
    have hbelow : (c.high - c.low + 1) * e.cumLow < (c.value - c.low + 1) * t :=
      (Nat.div_lt_iff_lt_mul ht).mp (by omega)
    have habove : (c.value - c.low + 1) * t ≤ (c.high - c.low + 1) * e.cumHigh :=
      (Nat.le_div_iff_mul_le ht).mp (by omega)
    have hlo : e.cumLow * (c.high - c.low + 1) ≤ (c.value - c.low + 1) * t - 1 := by rw [Nat.mul_comm]; omega
    exact ⟨(Nat.le_div_iff_mul_le (Nat.succ_pos _)).mpr hlo, Nat.div_lt_of_lt_mul (by omega)⟩
  · rintro ⟨hlo, hhi⟩
    have hdecoder := holds_narrow (decoderHolds_of_holds hv) he hlo hhi
    exact ⟨hdecoder.low, hdecoder.high⟩

/-- The search for the scaled value of a wide interval's `value` succeeds (R164). -/
theorem search_cum {m : FreqModel} {e0 : PartEntry} {es : List PartEntry} {c : Coder} (hm : FreqModel.wf m = true)
    (hpart : partition m = e0 :: es) (hv : c.Holds) :
    c.cum m.total < m.total ∧ searchFrom e0 es (c.cum m.total) ∈ partition m ∧
      (searchFrom e0 es (c.cum m.total)).cumLow ≤ c.cum m.total ∧
      c.cum m.total < (searchFrom e0 es (c.cum m.total)).cumHigh := by
  have he0 := partition_within hm e0 (hpart ▸ List.mem_cons_self)
  have ht : 0 < m.total := Nat.lt_of_lt_of_le (Nat.zero_lt_of_lt he0.nonempty) he0.below
  have hcum : c.cum m.total < m.total := cum_lt (c := { c with pending := 0 }) (decoderHolds_of_holds hv) ht
  rw [hpart]
  exact ⟨hcum, searchFrom_holds hpart (Nat.zero_le _) (by rwa [Nat.zero_add])⟩

/-- Settles O46: `value` begins inside the interval, the scaled value lies in exactly one sub-interval of [0, T),
narrowing by it keeps `value` inside, and so does each pass. -/
theorem decoderSearchNeverFails : Obligations.DecoderSearchNeverFails := by
  refine ⟨fun r r' c h => ?_, fun m e0 es c r hm hpart hlow hhigh hbnd hwide => ?_⟩
  · obtain ⟨k, hk, -, hhas, -⟩ := (reads_decodeInit 32 Coder.start).of_ok h
    have hbefore : r.Before r.nBits 30 := ⟨rfl, by simp only [BitReader.Has] at hhas; omega⟩
    obtain ⟨⟨v, rfl, hv⟩, -⟩ := decodeInit_ok hbefore h
    have hfull : full = 2 ^ 32 - 1 := rfl
    exact ⟨Nat.zero_le _, by simp only [Coder.start] at hv ⊢; omega, (wide_iff.mp wide_start).2⟩
  · intro e n
    have hv : c.Holds := ⟨hlow, hhigh⟩
    have hc : c.Wide := wide_iff.mpr ⟨hlow.trans hhigh, hbnd, hwide⟩
    obtain ⟨hcum, hmem, hlo, hhi⟩ := search_cum hm hpart hv
    have hwithin := partition_within hm e hmem
    have hn : n.Holds := (holds_narrow_iff hc hv hwithin).mpr ⟨hlo, hhi⟩
    have hinside := inside_narrow hc hwithin
    refine ⟨hcum, hmem, hlo, hhi, fun e' he' hlo' hhi' => (searchFrom_eq hpart (hpart ▸ he') hlo' hhi').symm,
      hn.1, hn.2, fun c' r' h => ?_⟩
    obtain ⟨hlow', hhigh'⟩ := decodeRenorm_holds hinside hn h
    exact ⟨hlow', hhigh', (wide_iff.mp (decodeRenorm_wide_of_inside hinside h)).2⟩

end Sys2Proof.Machine
end


section
/-! # The arithmetic decoder follows the encoder: where the bits lead it, and the round trip (R153 to R168) -/

namespace Sys2Proof.Machine

/-! ## The number that the bits read so far spell -/

theorem natOfBits_append (as bs : Bits) : natOfBits (as ++ bs) = natOfBits as * 2 ^ bs.length + natOfBits bs := by
  rw [natOfBits, List.foldl_append, natOfBits_foldl]
  rfl

/-- The number that the source's bits before the reader's index spell. -/
def BitReader.number (r : BitReader) : Nat := natOfBits ((List.range r.pos).map r.bitAt)

theorem number_skip_one (r : BitReader) : (r.skip 1).number = 2 * r.number + (r.bitAt r.pos).toNat := by
  have hone : natOfBits [r.bitAt r.pos] = (r.bitAt r.pos).toNat := by simp [natOfBits]
  rw [BitReader.number, bitAt_skip, BitReader.skip, List.range_succ, List.map_append, natOfBits_append, Nat.mul_comm 2]
  exact congrArg (_ + ·) hone

/-- `k` more bits shift the number by `k` places and fill them. -/
theorem number_skip (r : BitReader) (k : Nat) :
    2 ^ k * r.number ≤ (r.skip k).number ∧ (r.skip k).number < 2 ^ k * (r.number + 1) := by
  induction k with
  | zero => simp
  | succ k ih =>
    have hb := ((r.skip k).bitAt (r.skip k).pos).toNat_le
    rw [skip_add, number_skip_one, Nat.pow_succ, Nat.mul_assoc, Nat.mul_assoc, Nat.mul_left_comm,
      Nat.mul_left_comm _ 2 (r.number + 1)]
    omega

/-- The initialisation reads `value` (R160). -/
theorem decodeInit_number {n : Nat} {c c' : Coder} {r r' : BitReader} (hc : c.value = r.number)
    (h : decodeInit n c r = .ok (c', r')) : c'.value = r'.number ∧ c'.SameBounds c := by
  induction n generalizing c r with
  | zero => cases h; exact ⟨hc, rfl, rfl⟩
  | succ n ih =>
    simp only [decodeInit_succ, bitIn_eq] at h
    split at h
    · exact ih (c := c.push _) (by rw [number_skip_one, ← hc]; rfl) h
    · cases h

/-! ## Where the encoder's registers stand

The bits that the encoder has emitted and deferred fix its interval inside [0, 1): `mid` is where the register value
HALF stands, on the scale of the decoder's `number` at the same pass. A deferred bit says only that the interval lies
around HALF, so it leaves `mid` at the middle. -/

/-- Where HALF stands. -/
def mid (st : Coder × BitWriter) : Nat := half * (2 ^ st.1.pending * (2 * natOfBits st.2.bits + 1))

theorem natOfBits_replicate_false (n : Nat) : natOfBits (List.replicate n false) = 0 := by
  induction n with
  | zero => rfl
  | succ n ih => rw [List.replicate_succ, natOfBits_cons, ih, Bool.toNat_false, Nat.zero_mul]

theorem natOfBits_replicate_true (n : Nat) : natOfBits (List.replicate n true) + 1 = 2 ^ n := by
  induction n with
  | zero => rfl
  | succ n ih =>
    rw [List.replicate_succ, natOfBits_cons, Nat.add_assoc, ih, List.length_replicate, Nat.pow_succ]
    simp only [Bool.toNat_true]
    omega

/-- What EmitBit makes of the number of the bits: 0 and the deferred 1s end just below the middle, 1 and the deferred 0s
at it. -/
theorem natOfBits_emitBit (b : Bool) (c : Coder) (w : BitWriter) :
    natOfBits (emitBit b c w).2.bits + (!b).toNat = 2 ^ c.pending * (2 * natOfBits w.bits + 1) := by
  rw [emitBit_bits, natOfBits_append, natOfBits_cons, List.length_cons, List.length_replicate, Nat.pow_succ]
  cases b
  · have hones := natOfBits_replicate_true c.pending
    simp only [Bool.not_false, Bool.toNat_true, Bool.toNat_false]
    rw [Nat.add_assoc, Nat.add_assoc, hones]
    ring
  · simp only [Bool.not_true, Bool.toNat_true, Bool.toNat_false, natOfBits_replicate_false]
    ring

/-- A pass doubles the scale around the value that its arm takes off (R154). -/
theorem mid_encodePass {st : Coder × BitWriter} (ha : st.1.arm ≠ .exit) :
    mid (encodePass st) + half = 2 * (mid st + st.1.arm.offset) := by
  have hemit := fun b => natOfBits_emitBit b st.1 st.2
  have hhalf : half = 2 ^ 31 := rfl
  have hqtr : qtr = 2 ^ 30 := rfl
  cases harm : st.1.arm with
  | lower =>
    have hbit := hemit false
    have hpass : mid (encodePass st) = half * (2 ^ 0 * (2 * natOfBits (emitBit false st.1 st.2).2.bits + 1)) := by
      rw [mid, encodePass, harm]; rfl
    simp only [Bool.not_false, Bool.toNat_true] at hbit
    rw [hpass, mid, ← hbit, RenormArm.offset, hhalf]
    omega
  | upper =>
    have hbit := hemit true
    have hpass : mid (encodePass st) = half * (2 ^ 0 * (2 * natOfBits (emitBit true st.1 st.2).2.bits + 1)) := by
      rw [mid, encodePass, harm]; rfl
    simp only [Bool.not_true, Bool.toNat_false] at hbit
    rw [hpass, mid, ← hbit, RenormArm.offset, hhalf]
    omega
  | middle =>
    have hpass : mid (encodePass st) = half * (2 ^ (st.1.pending + 1) * (2 * natOfBits st.2.bits + 1)) := by
      rw [mid, encodePass, harm]; rfl
    rw [hpass, mid, Nat.pow_succ, Nat.mul_right_comm, RenormArm.offset, hhalf, hqtr]
    omega
  | exit => exact absurd harm ha

/-! ## The bits lead into the encoder's interval -/

/-- The number read so far lies in the encoder's interval. -/
def LeadsInto (st : Coder × BitWriter) (r : BitReader) : Prop :=
  mid st + st.1.low ≤ half + r.number ∧ half + r.number ≤ mid st + st.1.high

/-- Bits that lead into the interval after a pass led into it before the pass. -/
theorem leadsInto_of_encodePass {st : Coder × BitWriter} {r : BitReader} (hc : st.1.Inside) (ha : st.1.arm ≠ .exit)
    (h : LeadsInto (encodePass st) (r.skip 1)) : LeadsInto st r := by
  obtain ⟨hlow, hhigh⟩ := h
  obtain ⟨hlow', hhigh'⟩ := sameBounds_encodePass st
  have hoff := (arm_offset hc ha).1
  have hord := hc.ordered
  have hmid := mid_encodePass ha
  have hb := (r.bitAt r.pos).toNat_le
  rw [hlow', number_skip_one] at hlow
  rw [hhigh', number_skip_one] at hhigh
  simp only [Coder.shift] at hlow hhigh
  constructor <;> omega

theorem leadsInto_of_encodeRenorm {n : Nat} {st : Coder × BitWriter} {r : BitReader} (hc : st.1.Inside)
    (h : LeadsInto (encodeRenorm n st) (r.skip (renormPasses n st.1))) : LeadsInto st r := by
  induction n generalizing st r with
  | zero => exact h
  | succ n ih =>
    by_cases ha : st.1.arm = .exit
    · rwa [encodeRenorm_stays _ ha, renormPasses_exit n ha] at h
    · rw [encodeRenorm_succ n ha, renormPasses_pass n ha, skip_add,
        ← renormPasses_of_sameBounds n (sameBounds_encodePass st)] at h
      exact leadsInto_of_encodePass hc ha (ih (inside_encodePass hc ha) h)

section
variable {t : Nat} {part : List PartEntry}

/-- Bits that lead into the interval after a symbol led into the symbol's part of the interval before it. -/
theorem leadsInto_of_encodeSymbol {st : Coder × BitWriter} {r : BitReader} {b : Byte} (hc : st.1.Wide)
    (hb : (entryOf part b).Within t)
    (h : LeadsInto (encodeSymbol t part st b) (r.skip (symbolPasses t part st.1 b))) :
    LeadsInto (st.1.narrow t (entryOf part b), st.2) r :=
  leadsInto_of_encodeRenorm (st := (_, st.2)) (inside_narrow hc hb) h

theorem leadsInto_of_narrow {st : Coder × BitWriter} {r : BitReader} {e : PartEntry} (hc : st.1.Wide)
    (he : e.cumHigh ≤ t) (h : LeadsInto (st.1.narrow t e, st.2) r) : LeadsInto st r := by
  obtain ⟨hlow, hhigh⟩ : mid st + (st.1.narrow t e).low ≤ half + r.number ∧
    half + r.number ≤ mid st + (st.1.narrow t e).high := h
  obtain ⟨hlow', hhigh'⟩ := narrow_within (e := e) hc.ordered he
  exact ⟨by omega, by omega⟩

theorem encodeSymbol_wide {st : Coder × BitWriter} {b : Byte} (hc : st.1.Wide) (hb : (entryOf part b).Within t) :
    (encodeSymbol t part st b).1.Wide :=
  (encodeRenorm_wide (inside_narrow hc hb) (widensIn_codeBits _)).1

/-- Bits that lead into the last interval led into every one before it. -/
theorem leadsInto_of_encodeSymbols {st : Coder × BitWriter} {r : BitReader} {src : List Byte} (hc : st.1.Wide)
    (hsrc : ∀ b ∈ src, (entryOf part b).Within t)
    (h : LeadsInto (src.foldl (encodeSymbol t part) st) (r.skip (encodePasses t part st.1 src))) : LeadsInto st r := by
  induction src generalizing st r with
  | nil => exact h
  | cons b src ih =>
    obtain ⟨hb, hsrc⟩ := List.forall_mem_cons.mp hsrc
    rw [encodePasses_cons, skip_add] at h
    exact leadsInto_of_narrow hc hb.below
      (leadsInto_of_encodeSymbol hc hb (ih (encodeSymbol_wide hc hb) hsrc h))

/-- No arm applies after the last symbol. -/
theorem encodeSymbols_arm {st : Coder × BitWriter} {src : List Byte} (hc : st.1.Wide) (ha : st.1.arm = .exit)
    (hsrc : ∀ b ∈ src, (entryOf part b).Within t) : (src.foldl (encodeSymbol t part) st).1.arm = .exit := by
  induction src generalizing st with
  | nil => exact ha
  | cons b src ih =>
    obtain ⟨hb, hsrc⟩ := List.forall_mem_cons.mp hsrc
    exact ih (encodeSymbol_wide hc hb) (encodeRenorm_arm (inside_narrow hc hb) (widensIn_codeBits _)) hsrc

end

/-- The bits emitted at the end lead into the last interval, whatever bits follow them (R156). -/
theorem leadsInto_encodeFinish {st : Coder × BitWriter} {r : BitReader} (hc : st.1.Inside) (ha : st.1.arm = .exit)
    (hr : r.number = natOfBits (encodeFinish st).2.bits) : LeadsInto st (r.skip 30) := by
  obtain ⟨hord, hbnd⟩ := hc
  obtain ⟨hge, hlt⟩ := number_skip r 30
  have hhalf : half = 2 ^ 31 := rfl
  have hqtr : qtr = 2 ^ 30 := rfl
  have htqtr : tqtr = 3 * 2 ^ 30 := rfl
  have hlast := natOfBits_emitBit (!decide (st.1.low < qtr)) { st.1 with pending := st.1.pending + 1 } st.2
  have hmid : mid st = 2 ^ 30 * (r.number + (decide (st.1.low < qtr)).toNat) := by
    rw [encodeFinish] at hr
    rw [← hr, Bool.not_not] at hlast
    rw [hlast, mid, Nat.pow_succ, hhalf]
    ring
  rw [LeadsInto, hmid]
  unfold Coder.arm at ha
  split_ifs at ha with hlower hupper hmiddle
  by_cases hlow : st.1.low < qtr
  · rw [decide_eq_true hlow, Bool.toNat_true]
    omega
  · rw [decide_eq_false hlow, Bool.toNat_false]
    omega

/-! ## The decoder follows -/

/-- The decoder stands where the encoder stood: with its bounds, and with `value` at the number read so far. -/
structure Follows (c : Coder) (st : Coder × BitWriter) (r : BitReader) : Prop where
  bounds : c.SameBounds st.1
  value  : mid st + c.value = half + r.number

theorem Follows.holds_iff {c : Coder} {st : Coder × BitWriter} {r : BitReader} (h : Follows c st r) :
    c.Holds ↔ LeadsInto st r := by
  obtain ⟨⟨hlow, hhigh⟩, hvalue⟩ := h
  unfold Coder.Holds LeadsInto
  omega

/-- A pass of both keeps the decoder with the encoder. -/
theorem Follows.pass {c : Coder} {st : Coder × BitWriter} {r : BitReader} (h : Follows c st r) (hc : c.Inside)
    (ha : c.arm ≠ .exit) (hv : c.Holds) :
    Follows (c.decodeShift.push (r.bitAt r.pos)) (encodePass st) (r.skip 1) := by
  obtain ⟨hbounds, hvalue⟩ := h
  have harm := arm_of_sameBounds hbounds
  obtain ⟨hlow, hhigh⟩ := sameBounds_shift hbounds
  obtain ⟨hlow', hhigh'⟩ := sameBounds_encodePass st
  have hmid := mid_encodePass (st := st) (harm ▸ ha)
  have hoff := (arm_offset hc ha).1
  have hinside := hv.1
  refine ⟨⟨hlow.trans hlow'.symm, hhigh.trans hhigh'.symm⟩, ?_⟩
  rw [number_skip_one]
  rw [← harm] at hmid
  simp only [Coder.push, Coder.decodeShift]
  omega

theorem Follows.renorm {n : Nat} {c c' : Coder} {st : Coder × BitWriter} {r r' : BitReader} (h : Follows c st r)
    (hc : c.Inside) (hv : c.Holds) (hrun : decodeRenorm n c r = .ok (c', r')) : Follows c' (encodeRenorm n st) r' := by
  induction n generalizing c st r with
  | zero => cases hrun; exact h
  | succ n ih =>
    have harm := arm_of_sameBounds h.bounds
    by_cases ha : c.arm = .exit
    · rw [decodeRenorm_exit n r ha] at hrun
      cases hrun
      rwa [encodeRenorm_stays _ (harm ▸ ha)]
    · rw [encodeRenorm_succ n (harm ▸ ha)]
      exact ih (h.pass hc ha hv) (inside_push hc ha _) (holds_push hc ha hv _) (decodeRenorm_pass_ok ha hrun)

theorem Follows.narrow {c : Coder} {st : Coder × BitWriter} {r : BitReader} (h : Follows c st r) (t : Nat)
    (e : PartEntry) : Follows (c.narrow t e) (st.1.narrow t e, st.2) r :=
  ⟨sameBounds_narrow t e h.bounds, h.value⟩

/-- A symbol's entry is its own. -/
theorem entryOf_sym (part : List PartEntry) (b : Byte) : (entryOf part b).sym = b := by
  unfold entryOf
  split
  · rename_i e he
    simpa using List.find?_some he
  · rfl

section
variable {m : FreqModel} {e0 : PartEntry} {es : List PartEntry} (hm : FreqModel.wf m = true)
  (hpart : partition m = e0 :: es)
include hm hpart

/-- A decoder that follows the encoder, with bits that lead into the part of the interval that belongs to the encoder's
next symbol, finds that symbol, and follows the encoder through it. -/
theorem Follows.symbol {c : Coder} {st : Coder × BitWriter} {r : BitReader} {b : Byte} (h : Follows c st r)
    (hc : st.1.Wide) (hb : b ∈ m.map Prod.fst)
    (hleads : LeadsInto (st.1.narrow m.total (entryOf (partition m) b), st.2) r)
    (hroom : r.Has (symbolPasses m.total (partition m) st.1 b)) :
    ∃ c', searchFrom e0 es (c.cum m.total) = entryOf (partition m) b ∧
      decodeRenorm 32 (c.narrow m.total (entryOf (partition m) b)) r =
        .ok (c', r.skip (symbolPasses m.total (partition m) st.1 b)) ∧
      Follows c' (encodeSymbol m.total (partition m) st b) (r.skip (symbolPasses m.total (partition m) st.1 b)) := by
  have hmem := entryOf_mem hb
  have hwithin := partition_within hm _ hmem
  have hwide := wide_of_sameBounds h.bounds hc
  have hnarrow := h.narrow m.total (entryOf (partition m) b)
  have hv : c.Holds := h.holds_iff.mpr (leadsInto_of_narrow hc hwithin.below hleads)
  have hv' := hnarrow.holds_iff.mpr hleads
  obtain ⟨hlo, hhi⟩ := (holds_narrow_iff hwide hv hwithin).mp hv'
  rw [symbolPasses, ← renormPasses_of_sameBounds 32 hnarrow.bounds] at hroom ⊢
  obtain ⟨c', k, hge, hle, hrun⟩ := (reads_decodeRenorm 32 _).completes hroom
  rw [Nat.le_antisymm hle hge] at hrun
  have hfollows := hnarrow.renorm (inside_narrow hwide hwithin) hv' hrun
  exact ⟨c', searchFrom_eq hpart (hpart ▸ hmem) hlo hhi, hrun, hfollows⟩

/-- A decoder that follows the encoder, with bits that lead into the encoder's last interval, gives the encoder's
input. -/
theorem Follows.symbols {src : List Byte} {c : Coder} {st : Coder × BitWriter} {r : BitReader} (h : Follows c st r)
    (hc : st.1.Wide) (hsrc : ∀ b ∈ src, b ∈ m.map Prod.fst)
    (hleads : LeadsInto (src.foldl (encodeSymbol m.total (partition m)) st)
      (r.skip (encodePasses m.total (partition m) st.1 src)))
    (hroom : r.Has (encodePasses m.total (partition m) st.1 src)) :
    ∃ c' r', arithmeticSymbols m.total e0 es src.length c r = .ok (src, c', r') := by
  induction src generalizing c st r with
  | nil => exact ⟨c, r, rfl⟩
  | cons b src ih =>
    obtain ⟨hb, hsrc⟩ := List.forall_mem_cons.mp hsrc
    have hwithin : ∀ b ∈ m.map Prod.fst, (entryOf (partition m) b).Within m.total := fun b hb =>
      partition_within hm _ (entryOf_mem hb)
    have hc' := encodeSymbol_wide hc (hwithin b hb)
    rw [encodePasses_cons, has_add] at hroom
    rw [encodePasses_cons, skip_add] at hleads
    have hafter := leadsInto_of_encodeSymbols hc' (fun b hb => hwithin b (hsrc b hb)) hleads
    obtain ⟨c1, hfound, hrun, hfollows⟩ :=
      h.symbol hm hpart hc hb (leadsInto_of_encodeSymbol hc (hwithin b hb) hafter) hroom.1
    obtain ⟨c', r', hrest⟩ := ih hfollows hc' hsrc hleads hroom.2
    refine ⟨c', r', ?_⟩
    rw [List.length_cons, arithmeticSymbols]
    simp only [hfound, hrun, hrest, entryOf_sym, Config.codeBits]

/-- The decoder gives the encoder's input back from its bits, whatever bits follow them (R168). -/
theorem decode_arithmeticWriter {src : List Byte} {r : BitReader} (hsrc : ∀ b ∈ src, b ∈ m.map Prod.fst)
    (hpos : r.pos = 0) (hlen : (arithmeticWriter m src).bits.length ≤ r.nBits)
    (hbits : ∀ (k : Nat) (hk : k < (arithmeticWriter m src).bits.length),
      r.bitAt k = (arithmeticWriter m src).bits[k]) :
    ∃ c r' c' r'', decodeInit 32 Coder.start r = .ok (c, r') ∧
      arithmeticSymbols m.total e0 es src.length c r' = .ok (src, c', r'') := by
  have hbudget := length_arithmeticWriter m src
  obtain ⟨c, k, hge, hle, hinit⟩ := (reads_decodeInit 32 Coder.start).completes (r := r) (.inr (by omega))
  obtain rfl := Nat.le_antisymm hle hge
  have hzero : r.number = 0 := by rw [BitReader.number, hpos]; rfl
  obtain ⟨hvalue, hbounds⟩ := decodeInit_number (c := Coder.start) hzero.symm hinit
  have hfollows : Follows c (Coder.start, BitWriter.empty) (r.skip 32) := ⟨hbounds, congrArg (half + ·) hvalue⟩
  have hwithin : ∀ b ∈ src, (entryOf (partition m) b).Within m.total := fun b hb =>
    partition_within hm _ (entryOf_mem (hsrc b hb))
  have hread : (r.skip (arithmeticWriter m src).bits.length).number = natOfBits (arithmeticWriter m src).bits := by
    rw [BitReader.number, BitReader.skip, hpos, Nat.zero_add]
    refine congrArg natOfBits (List.ext_getElem (by simp) fun k _ hk => ?_)
    rw [List.getElem_map, List.getElem_range]
    exact hbits k hk
  have hleads := leadsInto_encodeFinish
    (encodeSymbols_wide (st := (Coder.start, BitWriter.empty)) hwithin wide_start).1.toInside
    (encodeSymbols_arm wide_start (by decide) hwithin) hread
  rw [← skip_add, hbudget, Nat.add_assoc, Nat.add_comm, skip_add] at hleads
  obtain ⟨c', r'', hrun⟩ := hfollows.symbols hm hpart wide_start hsrc hleads
    (.inr (by simp only [BitReader.skip]; omega))
  exact ⟨c, _, c', r'', hinit, hrun⟩

end

end Sys2Proof.Machine
end

section
/-! # AENC and ADEC: the blocks they write and read, and where ADEC is TRUNCATED (R157 to R163, R168) -/

namespace Sys2Proof.Machine

/-! ## What AENC writes (R157, R158) -/

/-- The payload's bits: none with fewer than two symbols, else the coder's. -/
def arithmeticBits (src : List Byte) : Bits :=
  if (buildModel src).length ≤ 1 then [] else (arithmeticWriter (buildModel src) src).bits

/-- A block of AENC: header, SCNT, padding marker, packed bits (R76). -/
def arithmeticBlock (src : List Byte) : List Byte :=
  serializeModel (buildModel src) ++ bytesBE src.length 4 ++
    BitVec.ofNat 8 (padOf (arithmeticBits src).length) :: packBits (arithmeticBits src)

theorem bodyAenc_eq (src : List Byte) (dc : Nat) :
    ∃ w, bodyAenc src dc = .ok ⟨arithmeticBlock src, src.length, w⟩ := by
  unfold bodyAenc arithmeticBlock arithmeticBits
  simp only
  split <;> exact ⟨_, rfl⟩

theorem length_arithmeticBlock (src : List Byte) :
    (arithmeticBlock src).length = 7 + 5 * (buildModel src).length + ((arithmeticBits src).length + 7) / 8 := by
  rw [arithmeticBlock, List.length_append, List.length_append, length_serializeModel, length_bytesBE, List.length_cons,
    length_packBits]
  omega

/-- Settles O53: the body's block is delivered; its length is that of its four parts. -/
theorem aencWritesTheBlock : Obligations.AencWritesTheBlock := by
  intro s r ha src m bits ht
  obtain ⟨w, hbody⟩ := bodyAenc_eq src r.latch.dc.toNat
  have ht' : s.Takes r (arithmeticBlock src).length := (length_arithmeticBlock src).symm ▸ ht
  refine ⟨w, (exec_takes ha hbody ht').trans ?_⟩
  rw [← length_source s]
  rfl

/-- A block of AENC, whatever bytes follow it, parses to the input's model and the payload's bits, with the bits of
those bytes after them. -/
theorem parseHeader_arithmeticBlock {d : List Byte} (extra : List Byte) (hd : d.length ≤ 0x3FFFFFFF) :
    parseHeader (arithmeticBlock d ++ extra) true =
      .ok ⟨buildModel d, d.length, packBits (arithmeticBits d) ++ extra,
        (arithmeticBits d).length + 8 * extra.length⟩ := by
  have hpacked := length_packBits_mul_eight (arithmeticBits d)
  have hempty : packBits (arithmeticBits d) ++ extra = [] → padOf (arithmeticBits d).length = 0 := by
    intro hnil
    rw [(List.append_eq_nil_iff.mp hnil).1, List.length_nil] at hpacked
    omega
  have hcount : 8 * (packBits (arithmeticBits d) ++ extra).length - padOf (arithmeticBits d).length =
      (arithmeticBits d).length + 8 * extra.length := by
    rw [List.length_append]
    omega
  have hparse := headerParsesBack (buildModel d) true (padOf (arithmeticBits d).length)
    (packBits (arithmeticBits d) ++ extra) (buildModel_wf hd) (padOf_le _) hempty
  rw [hcount, total_buildModel, if_pos rfl] at hparse
  rwa [arithmeticBlock, List.append_assoc, List.cons_append]

/-! ## The decoder as one run (R160, R163) -/

/-- The initialisation and `n` symbols. -/
def decodeRun (t : Nat) (e0 : PartEntry) (es : List PartEntry) (n : Nat) (r : BitReader) :
    Except ErrCode ((List Byte × Coder) × BitReader) :=
  (decodeInit 32 Coder.start r).bind fun p => symbolsRun t e0 es n p.1 p.2

section
variable {t n : Nat} {e0 : PartEntry} {es : List PartEntry} {c c' : Coder} {r r' : BitReader} {out : List Byte}

theorem reads_decodeRun (t : Nat) (e0 : PartEntry) (es : List PartEntry) (n : Nat) :
    Reads 32 (32 + 32 * n) (decodeRun t e0 es n) :=
  (reads_decodeInit 32 Coder.start).bind fun c => reads_symbolsRun t e0 es n c

theorem decodeRun_ok_iff : decodeRun t e0 es n r = .ok ((out, c'), r') ↔
    ∃ c r1, decodeInit 32 Coder.start r = .ok (c, r1) ∧ arithmeticSymbols t e0 es n c r1 = .ok (out, c', r') := by
  rw [decodeRun]
  cases decodeInit 32 Coder.start r with
  | error e => exact ⟨nofun, nofun⟩
  | ok p =>
    refine symbolsRun_ok_iff.trans ⟨fun h => ⟨p.1, p.2, rfl, h⟩, ?_⟩
    rintro ⟨_, _, ⟨⟩, h⟩
    exact h

theorem searchFrom_mem (e0 : PartEntry) (es : List PartEntry) (cum : Nat) : searchFrom e0 es cum ∈ e0 :: es := by
  induction es generalizing e0 with
  | nil => exact List.mem_cons_self
  | cons e1 es ih =>
    rw [searchFrom]
    split
    · exact List.mem_cons_self
    · exact List.mem_cons_of_mem _ (ih e1)

/-- The loop gives as many symbols as it is asked for, each of an entry of the partition. -/
theorem arithmeticSymbols_out (h : arithmeticSymbols t e0 es n c r = .ok (out, c', r')) :
    out.length = n ∧ ∀ b ∈ out, b ∈ (e0 :: es).map PartEntry.sym := by
  induction n generalizing c r out with
  | zero => cases h; exact ⟨rfl, nofun⟩
  | succ n ih =>
    unfold arithmeticSymbols at h
    simp only at h
    split at h
    · cases h
    · split at h
      · cases h
      · rename_i hrest
        cases h
        obtain ⟨hlen, hall⟩ := ih hrest
        exact ⟨congrArg (· + 1) hlen, List.forall_mem_cons.mpr ⟨List.mem_map_of_mem (searchFrom_mem e0 es _), hall⟩⟩

end

/-! ## The body of ADEC (R157, R163) -/

section
variable {src : List Byte} {dc : Nat} {h : Header} (hp : parseHeader src true = .ok h) (hdc : h.total ≤ dc)
include hp hdc

/-- With one symbol ADEC's body repeats it. -/
theorem bodyAdec_singleton {s : Byte} {f : Nat} (hm : h.model = [(s, f)]) :
    bodyAdec src dc = .ok ⟨List.replicate h.total s, h.total, modelWork h.model⟩ := by
  simp only [bodyAdec, hp, if_neg (Nat.not_lt.mpr hdc), hm]

/-- With at least two symbols ADEC's body is the decoder's run on the payload. -/
theorem bodyAdec_of_two {e0 : PartEntry} {es : List PartEntry} (hm : 2 ≤ h.model.length)
    (hpart : partition h.model = e0 :: es) :
    bodyAdec src dc =
      (decodeRun h.total e0 es h.total (BitReader.start h.payload h.nBits)).bind fun p =>
        .ok ⟨p.1.1, h.total, { modelWork h.model with coder := p.1.2, coderIndex := p.2.pos }⟩ := by
  obtain ⟨m, t, payload, nBits⟩ := h
  obtain _ | ⟨p, _ | ⟨q, m⟩⟩ := m
  · cases hm
  · exact absurd hm (by simp)
  simp only [bodyAdec, hp, if_neg (Nat.not_lt.mpr hdc), decodeRun, Config.codeBits] at hpart ⊢
  rw [hpart]
  simp only
  cases decodeInit 32 Coder.start (BitReader.start payload nBits) with
  | error e => rfl
  | ok p =>
    simp only [Except.bind, symbolsRun]
    cases arithmeticSymbols t e0 es t p.1 p.2 <;> rfl

/-- ADEC's body completes with what the decoder's run gives. -/
theorem bodyAdec_of_run {e0 : PartEntry} {es : List PartEntry} {out : List Byte} {c : Coder} {r : BitReader}
    (hm : 2 ≤ h.model.length) (hpart : partition h.model = e0 :: es)
    (hrun : decodeRun h.total e0 es h.total (BitReader.start h.payload h.nBits) = .ok ((out, c), r)) :
    ∃ w, bodyAdec src dc = .ok ⟨out, h.total, w⟩ :=
  ⟨_, by rw [bodyAdec_of_two hp hdc hm hpart, hrun]; rfl⟩

/-- ADEC's body ends with the error of the decoder's run. -/
theorem bodyAdec_of_runError {e0 : PartEntry} {es : List PartEntry} {e : ErrCode} (hm : 2 ≤ h.model.length)
    (hpart : partition h.model = e0 :: es)
    (hrun : decodeRun h.total e0 es h.total (BitReader.start h.payload h.nBits) = .error e) :
    bodyAdec src dc = .error e := by
  rw [bodyAdec_of_two hp hdc hm hpart, hrun]
  rfl

end

/-- A model with a symbol has an entry in its partition. -/
theorem exists_partition_cons {m : FreqModel} (h : 0 < m.length) : ∃ e0 es, partition m = e0 :: es := by
  obtain ⟨p, m, rfl⟩ := List.exists_cons_of_length_pos h
  exact ⟨_, _, rfl⟩

/-- What the decoder's run gives is as long as the header says and has symbols of its model only. -/
theorem decodeRun_out {m : FreqModel} {t n : Nat} {e0 : PartEntry} {es : List PartEntry} {r r' : BitReader}
    {out : List Byte} {c : Coder} (hpart : partition m = e0 :: es)
    (h : decodeRun t e0 es n r = .ok ((out, c), r')) : out.length = n ∧ ∀ b ∈ out, b ∈ m.map Prod.fst := by
  obtain ⟨c1, r1, -, hsymbols⟩ := decodeRun_ok_iff.mp h
  rw [← partitionFrom_syms 0, show partitionFrom 0 m = e0 :: es from hpart]
  exact arithmeticSymbols_out hsymbols

/-- ADEC's body completes on 32 + 32·T bits of any value, with symbols of the model. -/
theorem bodyAdec_completes {src : List Byte} {dc : Nat} {h : Header} (hp : parseHeader src true = .ok h)
    (hdc : h.total ≤ dc) (hlen : 32 + 32 * h.total ≤ h.nBits) :
    ∃ out w, out.length = h.total ∧ (∀ b ∈ out, b ∈ h.model.map Prod.fst) ∧
      bodyAdec src dc = .ok ⟨out, h.total, w⟩ := by
  obtain ⟨_, htotal, _⟩ := parseHeader_ok hp
  match hm : h.model with
  | [] =>
    have hzero : h.total = 0 := by rw [htotal, hm]; rfl
    obtain ⟨m, t, payload, nBits⟩ := h
    simp only at hm hzero
    subst hm hzero
    exact ⟨[], _, rfl, nofun, bodyAdec_emptyModel dc hp⟩
  | [(s, f)] =>
    exact ⟨_, _, List.length_replicate, fun b hb => List.mem_singleton.mpr (List.eq_of_mem_replicate hb),
      bodyAdec_singleton hp hdc hm⟩
  | p :: q :: m =>
    have htwo : 2 ≤ h.model.length := by rw [hm]; exact Nat.le_add_left 2 _
    obtain ⟨e0, es, hpart⟩ := exists_partition_cons (Nat.lt_of_succ_lt htwo)
    obtain ⟨⟨out, c⟩, k, -, -, hrun⟩ := (reads_decodeRun h.total e0 es h.total).completes
      (r := BitReader.start h.payload h.nBits) (.inr (by simp only [BitReader.start]; omega))
    obtain ⟨w, hbody⟩ := bodyAdec_of_run hp hdc htwo hpart hrun
    obtain ⟨hcount, hall⟩ := decodeRun_out hpart hrun
    exact ⟨out, w, hcount, hm ▸ hall, hbody⟩

/-- ADEC's body gives `d` for the block of `d`, whatever bytes follow it. -/
theorem bodyAdec_arithmeticBlock {d : List Byte} (extra : List Byte) {dc : Nat} (hd : d.length ≤ 0x3FFFFFFF)
    (hdc : d.length ≤ dc) : ∃ w, bodyAdec (arithmeticBlock d ++ extra) dc = .ok ⟨d, d.length, w⟩ := by
  have hparse := parseHeader_arithmeticBlock extra hd
  have hsymbols := mem_symbols_buildModel (d := d)
  match hm : buildModel d with
  | [] =>
    obtain rfl := buildModel_eq_nil.mp hm
    rw [hm] at hparse
    exact ⟨_, bodyAdec_emptyModel dc hparse⟩
  | [(s, f)] =>
    rw [hm] at hsymbols
    have hrepeat := (codewords_singleton hsymbols).1
    exact ⟨modelWork (buildModel d), (bodyAdec_singleton hparse hdc hm).trans (by simp only [← hrepeat])⟩
  | p :: q :: m =>
    have htwo : 2 ≤ (buildModel d).length := by rw [hm]; exact Nat.le_add_left 2 _
    have hbits : arithmeticBits d = (arithmeticWriter (buildModel d) d).bits := if_neg (by omega)
    obtain ⟨e0, es, hpart⟩ := exists_partition_cons (Nat.lt_of_succ_lt htwo)
    have hsource : ∀ (k : Nat) (hk : k < (arithmeticWriter (buildModel d) d).bits.length),
        (BitReader.start (packBits (arithmeticBits d) ++ extra)
          ((arithmeticBits d).length + 8 * extra.length)).bitAt k = (arithmeticWriter (buildModel d) d).bits[k] := by
      rw [← hbits]
      intro k hk
      simp only [BitReader.bitAt, BitReader.start, streamBit_packBits_append _ _ hk, Nat.lt_add_right _ hk, decide_true,
        Bool.true_and]
    obtain ⟨c, r1, c', r', hinit, hrun⟩ := decode_arithmeticWriter (buildModel_wf hd) hpart hsymbols rfl
      (hbits ▸ Nat.le_add_right _ _) hsource
    rw [total_buildModel] at hrun
    exact bodyAdec_of_run hparse hdc htwo hpart (decodeRun_ok_iff.mpr ⟨c, r1, hinit, hrun⟩)

/-- Settles O49: the block of the input, with nothing after it, gives the input back. -/
theorem arithmeticRoundTrip : Obligations.ArithmeticRoundTrip := by
  intro d dc dc' hd hdc
  obtain ⟨w, hblock⟩ := bodyAenc_eq d dc
  obtain ⟨w', hback⟩ := bodyAdec_arithmeticBlock [] hd hdc
  rw [List.append_nil] at hback
  exact ⟨arithmeticBlock d, w, w', hblock, hback⟩

/-! ## ADEC completes, or ends with TRUNCATED -/

/-- Settles O57: the body gives the input back, and the window takes it. -/
theorem adecRestoresTheInput : Obligations.AdecRestoresTheInput := by
  intro s r d block extra w ha hd hblock hsource ht
  obtain ⟨_, hblock'⟩ := bodyAenc_eq d 0
  obtain ⟨rfl, -⟩ := BodyOut.mk.inj (Except.ok.inj (hblock.symm.trans hblock'))
  obtain ⟨w', hback⟩ := bodyAdec_arithmeticBlock extra hd ht.1
  rw [← hsource] at hback
  exact ⟨w', exec_takes ha hback ht⟩

/-- Settles O58: a symbol takes at most 32 bits, and every search ends with an entry of the partition. -/
theorem adecCompletesOnAnyPayload : Obligations.AdecCompletesOnAnyPayload := by
  intro s r h ha hp hlen ht
  obtain ⟨out, w, hcount, hall, hbody⟩ := bodyAdec_completes hp ht.1 hlen
  exact ⟨out, w, hcount, hall, exec_takes ha hbody (hcount.symm ▸ ht)⟩

/-- The three parts of the bit source (R159). -/
theorem bitIn_parts (r : BitReader) :
    (r.pos < r.nBits → r.bitIn = .ok (streamBit r.payload r.pos, r.skip 1)) ∧
    (r.nBits ≤ r.pos → r.pos < r.nBits + 30 → r.bitIn = .ok (false, r.skip 1)) ∧
    (r.nBits + 30 ≤ r.pos → r.bitIn = .error .truncated) := by
  rw [bitIn_eq]
  refine ⟨fun h => ?_, fun h h' => ?_, fun h => if_neg (by simp only [BitReader.Has]; omega)⟩
  · rw [if_pos (.inr (by omega)), BitReader.bitAt, decide_eq_true h, Bool.true_and]
  · rw [if_pos (.inr h'), BitReader.bitAt, decide_eq_false (Nat.not_lt.mpr h), Bool.false_and]

/-- On two readers with the same bits the decoder's run reads alike: what it gives on one with enough bits, it gives on
the other, or is TRUNCATED there, by the index it reads up to. -/
theorem decodeRun_alike {t n : Nat} {e0 : PartEntry} {es : List PartEntry} {q r : BitReader}
    (hbits : r.bitAt = q.bitAt) (hpos : r.pos = q.pos) (hq : q.Has (32 + 32 * n)) :
    ∃ out c k, 32 ≤ k ∧ decodeRun t e0 es n q = .ok ((out, c), q.skip k) ∧
      decodeRun t e0 es n r = if r.Has k then .ok ((out, c), r.skip k) else .error .truncated := by
  obtain ⟨⟨out, c⟩, k, hlo, hhi, hrun⟩ := reads_decodeRun t e0 es n q.bitAt q.pos
  refine ⟨out, c, k, hlo, (hrun q rfl rfl).trans (if_pos ?_), hrun r hbits hpos⟩
  simp only [BitReader.Has] at hq ⊢
  omega

/-- Zeros after the payload are what the bit source gives there (R159). -/
theorem bitAt_of_zeros {payload q : List Byte} {n m : Nat} (hm : n ≤ m)
    (hq : ∀ k, streamBit q k = (decide (k < n) && streamBit payload k)) :
    (BitReader.start payload n).bitAt = (BitReader.start q m).bitAt := by
  funext k
  change (decide (k < n) && streamBit payload k) = (decide (k < m) && streamBit q k)
  rw [hq]
  by_cases hk : k < n
  · rw [decide_eq_true hk, decide_eq_true (Nat.lt_of_lt_of_le hk hm), Bool.true_and, Bool.true_and]
  · rw [decide_eq_false hk, Bool.false_and, Bool.and_false]

/-- With fewer than two payload bits the initialisation is TRUNCATED: it takes 32 bits, and 30 zeros follow the
payload. -/
theorem bodyAdec_short {src : List Byte} {dc : Nat} {h : Header} (hp : parseHeader src true = .ok h)
    (hdc : h.total ≤ dc) (hm : 2 ≤ h.model.length) (hshort : h.nBits < 2) : bodyAdec src dc = .error .truncated := by
  obtain ⟨e0, es, hpart⟩ := exists_partition_cons (Nat.lt_of_succ_lt hm)
  obtain ⟨_, k, hlo, -, hrun⟩ :=
    reads_decodeRun h.total e0 es h.total (BitReader.start h.payload h.nBits).bitAt 0
  refine bodyAdec_of_runError hp hdc hm hpart ((hrun _ rfl rfl).trans (if_neg ?_))
  simp only [BitReader.Has, BitReader.start]
  omega

/-- Settles O59: the run on the payload and the run on the payload with zeros after it read the same bits. -/
theorem adecTruncatedPayload : Obligations.AdecTruncatedPayload := by
  refine ⟨bitIn_parts, fun t n e0 es c c' r r' out hpos h => ?_, fun s r h ha hp htwo hdc =>
    ⟨endWithError_failedWith s r .truncated, fun hshort => exec_bodyError ha (bodyAdec_short hp hdc htwo hshort),
      fun q m e0 es hpart hq hm hlen => ?_⟩⟩
  · obtain ⟨k, -, -, hhas, rfl⟩ := (reads_symbolsRun t e0 es n c).of_ok (symbolsRun_ok_iff.mpr h)
    refine ⟨rfl, rfl, ?_⟩
    simp only [BitReader.Has, BitReader.skip] at hhas ⊢
    omega
  · obtain ⟨out, c', k, hk, hqrun, hrun⟩ := decodeRun_alike (t := h.total) (e0 := e0) (es := es) (n := h.total)
      (bitAt_of_zeros hm hq) rfl (.inr (by simp only [BitReader.start]; omega))
    obtain ⟨c, r1, hinit, hsymbols⟩ := decodeRun_ok_iff.mp hqrun
    refine ⟨c, c', r1, _, out, hinit, hsymbols, fun hpast => ?_, fun hin ht => ?_⟩
    · rw [if_neg (by simp only [BitReader.Has, BitReader.start, BitReader.skip] at hpast ⊢; omega)] at hrun
      exact exec_bodyError ha (bodyAdec_of_runError hp hdc htwo hpart hrun)
    · rw [if_pos (.inr (by simpa only [BitReader.start, BitReader.skip] using hin))] at hrun
      obtain ⟨w, hbody⟩ := bodyAdec_of_run hp hdc htwo hpart hrun
      exact ⟨w, exec_takes ha hbody ((decodeRun_out hpart hrun).1.symm ▸ ht)⟩

end Sys2Proof.Machine
end

section
/-! # The bit stream: the reader gives back what the writer packed (R180 to R184) -/

namespace Sys2Proof.Machine

/-- Flushing a writer that was given `bits` from empty yields their packed bytes and their PAD (R181). -/
theorem flush_appendAll_empty (bits : Bits) :
    (BitWriter.empty.appendAll bits).flush = (packBits bits, padOf bits.length) := by
  rw [BitWriter.flush, appendAll_bits, BitWriter.empty, List.nil_append]

/-- N_bits of the packed bytes and their PAD (R183) is the number of bits written. -/
theorem packBits_nBits (bits : Bits) : 8 * (packBits bits).length - padOf bits.length = bits.length := by
  have hlen := length_packBits_mul_eight bits
  omega

/-- A read at an index below the number of bits written gives the bit written there and moves on by one (R182). -/
theorem read_packBits {bits : Bits} {k : Nat} (h : k < bits.length) :
    (BitReader.mk (packBits bits) bits.length k).read = .ok (bits[k], ⟨packBits bits, bits.length, k + 1⟩) := by
  rw [BitReader.read, if_pos h, streamBit_packBits bits k h, BitReader.advance]

/-- A read at N_bits is TRUNCATED (R182). -/
theorem read_at_nBits (payload : List Byte) (n : Nat) : (BitReader.mk payload n n).read = .error .truncated :=
  if_neg (Nat.lt_irrefl n)

/-- Settles O38: the flushed bytes are `packBits` of the bits written, and the reader finds each bit at its index. -/
theorem bitStreamRoundTrip : Obligations.BitStreamRoundTrip := by
  refine ⟨by decide, fun bits => ?_⟩
  rw [flush_appendAll_empty]
  exact ⟨packBits_nBits bits, fun _ => read_packBits, read_at_nBits (packBits bits) bits.length⟩

end Sys2Proof.Machine
end

section
/-! # Exceptions: the codes a command completes with, and that it ends (spec/60_exceptions.md) -/

namespace Sys2Proof.Machine

/-! ## Acknowledgement (R216) -/

/-- Settles O12: with bit 1 set the write is `acknowledge`, and DONE = 0 lowers irq. -/
theorem acknowledgeClearsOnlyDone : Obligations.AcknowledgeClearsOnlyDone := by
  intro s v
  refine ⟨fun h => ?_, fun h => ?_⟩
  · have hack : s.writeCsr .status v = s.acknowledge := by
      simp only [State.writeCsr, State.writeStatus, h, if_true]
    rw [hack]
    exact ⟨rfl, rfl⟩
  · simp only [State.writeCsr, State.writeStatus, h, Bool.false_eq_true, if_false]

/-! ## Ends before any DMA access (R206 to R208) -/

/-- What CompleteErr leaves of a running command's state (R212). -/
theorem completeErr_eq {s : State} {r : Running} (code : ErrCode) (hr : s.running = some r) :
    s.completeErr code =
      { s with
        running := none, work := Work.empty, unseen := some r.latch, done := true, empty := false,
        errCode := code, dstLen := 0#32, symCount := 0#32 } := by
  rw [State.completeErr, State.completing, hr]
  rfl

/-- Without a hazard an end before DMA is CompleteErr and nothing else. -/
theorem endBeforeDma_eq (s : State) {r : Running} (code : ErrCode) (hh : r.hazard = false) :
    s.endBeforeDma r code = s.completeErr code := by
  rw [State.endBeforeDma, hh]
  rfl

/-- A command that the first checks refuse ends with their code. -/
theorem exec_refused {i : Instr} {s : State} {r : Running} {code : ErrCode} (hr : s.running = some r)
    (hh : r.hazard = false) (hp : preCheck i r.latch = some code) : exec i s = .next (s.completeErr code) := by
  rw [exec_running i hr, State.frame, hp]
  exact congrArg _ (endBeforeDma_eq s code hh)

/-- Settles O19: the core rejects the opcode, and without a hazard that is CompleteErr. -/
theorem reservedOpcodeCompletesWithBadCommand : Obligations.ReservedOpcodeCompletesWithBadCommand := by
  intro s r hr hh hop
  rw [coreStep_error hr (decodeOp_reserved _ hop), State.rejectReserved, endBeforeDma_eq s _ hh, completeErr_eq _ hr]

/-- A region that does not fit, or an overlap, is BAD_CONFIG for every command (R208). -/
theorem preCheck_badRegions (i : Instr) {l : Latch}
    (h : l.src.fits = false ∨ l.dst.fits = false ∨ l.src.overlaps l.dst = true) :
    preCheck i l = some .badConfig := by
  unfold preCheck
  rcases h with h | h | h <;> simp [h]

/-- With valid regions an overlong source is LENGTH for the commands that limit it (R206). -/
theorem preCheck_overlong {i : Instr} {l : Latch} (hi : limitsLength i = true) (hsrc : l.src.fits = true)
    (hdst : l.dst.fits = true) (hdisjoint : l.src.overlaps l.dst = false) (hlen : Config.maxLen < l.sl.toNat) :
    preCheck i l = some .length := by
  simp [preCheck, hi, hsrc, hdst, hdisjoint, hlen]

theorem fits_eq_false_iff (q : Region) : q.fits = false ↔ 2 ^ 32 < q.base + q.size := by
  rw [← Bool.not_eq_true, fits_iff, Nat.not_le]

/-- Settles O20: the regions fail one of the first two checks, whose refusal is CompleteErr. -/
theorem badRegionsEndWithBadConfig : Obligations.BadRegionsEndWithBadConfig := by
  intro i s r hr hh hregions
  have hp : preCheck i r.latch = some .badConfig := by
    refine preCheck_badRegions i ?_
    rw [fits_eq_false_iff, fits_eq_false_iff, overlaps_iff]
    exact hregions
  rw [exec_refused hr hh hp, completeErr_eq _ hr]

/-! ## Everything a command without a hazard can do -/

/-- The codes a command past its first checks can fail with (R203, R205, R209). -/
def dmaErrors (i : Instr) : List ErrCode := .busError :: .outputOverflow :: bodyErrors i

/-- Everything `exec i s` can make of `s` while `r` runs without a hazard. -/
inductive CleanEnd (i : Instr) (s : State) (r : Running) : State → Prop where
  | stalled (n : Nat) : CleanEnd i s r ((s.bump n).stall r)
  | refused {code : ErrCode} (hcode : preCheck i r.latch = some code) : CleanEnd i s r (s.completeErr code)
  | failed (n : Nat) {code : ErrCode} (hcode : code ∈ dmaErrors i) : CleanEnd i s r ((s.bump n).endWithError r code)
  | succeeded (n : Nat) (b : BodyOut) : CleanEnd i s r ((s.bump n).success r b.out b.syms b.work)

/-- A body's error is one of those listed for its command. -/
theorem bodyOf_error_mem {i : Instr} {src : List Byte} {dc : Nat} {code : ErrCode}
    (h : bodyOf i src dc = .error code) : code ∈ bodyErrors i := by
  obtain ⟨rfl | rfl, rfl | rfl | rfl⟩ := bodyOf_error h <;> decide

/-- The end of a body after `n` free values, when its errors are those of the command. -/
theorem finish_cleanEnd {i : Instr} {s : State} {r : Running} (n : Nat) {res : BodyResult}
    (herr : ∀ code, res = .error code → code ∈ bodyErrors i) : CleanEnd i s r ((s.bump n).finish r res) := by
  rcases finish_cases (s.bump n) r res with ⟨b, _, _, e⟩ | ⟨code, hcode, e⟩ | ⟨_, e⟩ <;> rw [e]
  · exact .succeeded n b
  · refine .failed n ?_
    rcases hcode with hcode | rfl | rfl
    · exact List.mem_cons_of_mem _ (List.mem_cons_of_mem _ (herr code hcode))
    · exact List.mem_cons_of_mem _ List.mem_cons_self
    · exact List.mem_cons_self
  · exact .stalled n

/-- The errors of a free result are those of its command. -/
theorem freeResult_error_mem {i : Instr} {s : State} {r : Running} {code : ErrCode}
    (h : s.freeResult i r = .error code) : code ∈ bodyErrors i := by
  rcases freeResult_cases s i r with ⟨_, hmem, e⟩ | e <;> rw [e] at h <;> cases h
  exact hmem

/-- How a command without a hazard ends. -/
theorem exec_cleanEnd {i : Instr} {s s' : State} {r : Running} (hr : s.running = some r) (hh : r.hazard = false)
    (h : exec i s = .next s') : CleanEnd i s r s' := by
  rw [exec_running i hr] at h
  obtain rfl : s.frame i r (bodyOf i) = s' := by injection h
  rcases frame_cases s i r (bodyOf i) with ⟨code, hp, e⟩ | ⟨_, _, e⟩ | ⟨_, _, hh', _⟩ | ⟨_, _, _, e⟩ |
    ⟨_, _, _, _, e⟩ | ⟨_, _, _, e⟩
  · rw [e, endBeforeDma_eq s code hh]
    exact .refused hp
  · rw [e]
    exact .stalled 0
  · rw [hh] at hh'
    cases hh'
  · rw [e]
    exact .failed 0 List.mem_cons_self
  · rw [e]
    exact finish_cleanEnd _ fun _ => freeResult_error_mem
  · rw [e]
    exact finish_cleanEnd 0 fun _ => bodyOf_error_mem

/-! ## The codes of each command (R202 to R208) -/

/-- The codes a command can complete with. -/
def completionCodes (i : Instr) : List ErrCode :=
  .noError :: .badConfig :: (if limitsLength i then [.length] else []) ++ dmaErrors i

/-- The first checks report LENGTH for the commands that limit the source only (R206). -/
theorem preCheck_mem_completionCodes {i : Instr} {l : Latch} {code : ErrCode} (h : preCheck i l = some code) :
    code ∈ completionCodes i := by
  unfold preCheck at h
  split at h
  · cases h
    simp [completionCodes]
  · split at h
    · cases h
      simp [completionCodes]
    · split at h
      · rename_i hlimit
        cases h
        simp [completionCodes, (Bool.and_eq_true_iff.mp hlimit).1]
      · cases h

/-- A command that has completed without a hazard shows one of its codes. -/
theorem CleanEnd.errCode_mem {i : Instr} {s t : State} {r : Running} (h : CleanEnd i s r t)
    (hdone : t.running = none) : t.errCode ∈ completionCodes i := by
  cases h with
  | stalled n => cases hdone
  | refused hcode => exact preCheck_mem_completionCodes hcode
  | failed n hcode => exact List.mem_append_right _ hcode
  | succeeded n b => exact List.mem_cons_self

/-- Settles O24: the listed codes are those of `completionCodes`. -/
theorem outcomeCodes : Obligations.OutcomeCodes := by
  intro i s s' r hr hh h hdone
  have hcode : s'.errCode ∈ completionCodes i := (exec_cleanEnd hr hh h).errCode_mem hdone
  refine ⟨fun hi => ?_, fun hdec hadec => ?_⟩
  · have hsub : completionCodes i ⊆ [.noError, .badConfig, .busError, .modelParse, .outputOverflow, .truncated] := by
      rcases hi with rfl | rfl <;> decide
    exact hsub hcode
  · have hsub : completionCodes i ⊆ [.noError, .badConfig, .length, .busError, .outputOverflow] := by
      cases i with
      | hdec => exact absurd rfl hdec
      | adec => exact absurd rfl hadec
      | freq | henc | hcodes | aenc => decide
    exact hsub hcode

/-- Settles O21: the first check that fails is the one on the length, the decoders have no code LENGTH, and a header
that parses has a well-formed model. -/
theorem overlongSourceEndsEncodersWithLength : Obligations.OverlongSourceEndsEncodersWithLength := by
  refine ⟨fun i s r hi hr hh hsrc hdst hapart hlen => ?_, fun i s s' r hi hr hh h hdone hcode => ?_,
    fun src ari h hp => ?_⟩
  · have hlimit : limitsLength i = true := by rcases hi with rfl | rfl | rfl | rfl <;> rfl
    have hdisjoint : r.latch.src.overlaps r.latch.dst = false := by
      rw [← Bool.not_eq_true, overlaps_iff]
      simp only [src_base, src_size, dst_base, dst_size]
      omega
    have hp : preCheck i r.latch = some .length :=
      preCheck_overlong hlimit ((fits_iff r.latch.src).mpr hsrc) ((fits_iff r.latch.dst).mpr hdst) hdisjoint hlen
    rw [exec_refused hr hh hp, completeErr_eq _ hr]
  · have hmem : s'.errCode ∈ completionCodes i := (exec_cleanEnd hr hh h).errCode_mem hdone
    rw [hcode] at hmem
    revert hmem
    rcases hi with rfl | rfl <;> decide
  · obtain ⟨hwf, htotal, _⟩ := parseHeader_ok hp
    obtain ⟨_, _, _, hmax⟩ := (freqModel_wf_iff h.model).mp hwf
    exact htotal ▸ hmax

/-! ## What a failed command shows (R212, R214) -/

/-- STATUS after a failure is DONE, ERR and the code. -/
theorem statusWord_of_failedWith {s : State} {code : ErrCode} (h : s.FailedWith code) (hcode : code ≠ .noError) :
    s.statusWord = 0x00000006#32 ||| (code.toBits.setWidth 32 <<< 8) := by
  obtain ⟨hrun, hdone, hempty, herr, _⟩ := h
  have herr1 : s.err = true := by simpa [State.err, herr] using hcode
  simp [State.statusWord, State.busy, hrun, hdone, hempty, herr, herr1, flagAt]

/-- CompleteErr reports its code and no output. -/
theorem completeErr_failedWith (s : State) (code : ErrCode) : (s.completeErr code).FailedWith code :=
  ⟨rfl, rfl, rfl, rfl, rfl, rfl⟩

/-- A command that has completed with an error, without a hazard, has failed with its code. -/
theorem CleanEnd.failedWith {i : Instr} {s t : State} {r : Running} (h : CleanEnd i s r t) (hdone : t.running = none)
    (hcode : t.errCode ≠ .noError) : t.FailedWith t.errCode := by
  cases h with
  | stalled n => cases hdone
  | refused _ => exact completeErr_failedWith s _
  | failed n _ => exact endWithError_failedWith (s.bump n) r _
  | succeeded n b => exact absurd rfl hcode

/-- The core's turn on a running command without a hazard: a command's end, or the rejection of its opcode. -/
theorem coreStep_clean {s s' : State} {r : Running} (hr : s.running = some r) (hh : r.hazard = false)
    (h : coreStep s = .next s') : (∃ i, CleanEnd i s r s') ∨ s' = s.completeErr .badCommand := by
  cases hd : decodeOp r.latch.op with
  | ok i =>
    rw [coreStep_ok hr hd] at h
    exact .inl ⟨i, exec_cleanEnd hr hh h⟩
  | error e =>
    rw [coreStep_error hr hd, State.rejectReserved, endBeforeDma_eq s _ hh] at h
    injection h with h
    exact .inr h.symm

/-- Settles O25: each end without a hazard that shows an error is a failure with its code, or the opcode's rejection. -/
theorem failedCommandsReportNoOutput : Obligations.FailedCommandsReportNoOutput := by
  intro s s' r hr hh h hdone hcode
  have hfailed : s'.FailedWith s'.errCode := by
    rcases coreStep_clean hr hh h with ⟨i, hend⟩ | rfl
    · exact hend.failedWith hdone hcode
    · exact completeErr_failedWith s .badCommand
  obtain ⟨_, _, _, _, hlen, hsyms⟩ := id hfailed
  exact ⟨hlen, hsyms, statusWord_of_failedWith hfailed hcode⟩

/-- Settles O27: of the ways a command can end only the stall does not complete it, and each completion sets DONE. -/
theorem completionRaisesIrq : Obligations.CompletionRaisesIrq := by
  intro i s s' h hdone
  obtain ⟨r, _, hend⟩ := exec_ends h
  cases hend with
  | stalled n => cases hdone
  | refused | failed | unspecified | succeeded => exact ⟨rfl, rfl⟩

/-- Settles O30: the first checks end in CompleteErr, and a command that is still running has stalled. -/
theorem noDmaLeavesMemory : Obligations.NoDmaLeavesMemory := by
  rintro i s s' r hr h (⟨hp, hh⟩ | hrun)
  · obtain ⟨code, hcode⟩ := Option.ne_none_iff_exists'.mp hp
    rw [exec_refused hr hh hcode] at h
    cases h
    rfl
  · obtain ⟨q, _, hend⟩ := exec_ends h
    cases hend with
    | stalled n => rfl
    | refused | failed | unspecified | succeeded => exact absurd rfl hrun

/-! ## Bus errors (R209) -/

/-- On a platform that answers every access, one address with a bus error makes a set of accesses end with it. -/
theorem dma_error {s : State} {dir : DmaDir} {q : Region} {a : Nat}
    (hanswered : ∀ b ∈ s.platform.busRules, b.answer ≠ .never) (hlow : q.base ≤ a) (hhigh : a < q.base + q.size)
    (herr : s.platform.answers dir ⟨a, 1⟩ .error = true) : s.dma dir q = .error := by
  rw [dma_answered (answers_never hanswered dir q), answers_of_address hlow hhigh herr, if_pos rfl]

/-- A command past its first checks whose source reads end with a bus error ends with BUS_ERROR. -/
theorem exec_readError {i : Instr} {s : State} {r : Running} (hr : s.running = some r) (hh : r.hazard = false)
    (hp : preCheck i r.latch = none) (hd : s.dma .read r.latch.src = .error) :
    exec i s = .next (s.endWithError r .busError) := by
  rw [exec_running i hr, State.frame, hp]
  simp [State.runBody, hd, hh]

/-- A result that fits its window and whose writes end with a bus error is lost. -/
theorem deliver_writeError {s : State} {r : Running} {b : BodyOut} (hlen : b.out.length ≤ r.latch.dc.toNat)
    (hd : s.dma .write ⟨r.latch.da.toNat, b.out.length⟩ = .error) : s.deliver r b = s.endWithError r .busError := by
  rw [State.deliver, if_neg (Nat.not_lt.mpr hlen), hd]

/-- Settles O22: the byte's bus error is the answer to its whole set of accesses. -/
theorem busErrorEndsTheCommand : Obligations.BusErrorEndsTheCommand := by
  intro i s r a hr hh hp hanswered
  refine ⟨fun hlow hhigh herr => ⟨?_, endWithError_failedWith s r .busError⟩,
    fun out syms w hstable hread hb hlen hlow hhigh herr => ⟨?_, endWithError_failedWith s r .busError⟩⟩
  · exact exec_readError hr hh hp (dma_error hanswered hlow hhigh herr)
  · have ha : s.Admits i r := ⟨⟨hr, hstable, hread⟩, hp⟩
    have hd : s.dma .write ⟨r.latch.da.toNat, out.length⟩ = .error := dma_error hanswered hlow hhigh herr
    rw [exec_bodyOk ha hb, deliver_writeError (b := ⟨out, syms, w⟩) hlen hd]

/-! ## Capacity (R205, R211) -/

/-- A decoder whose header is refused ends with the parser's code, whatever the window is. -/
theorem bodyOf_badHeader {i : Instr} {src : List Byte} {e : ErrCode} (dc : Nat) (hi : i = .hdec ∨ i = .adec)
    (h : parseHeader src (decide (i = .adec)) = .error e) : bodyOf i src dc = .error e := by
  rcases hi with rfl | rfl
  · change parseHeader src false = .error e at h
    simp only [bodyOf, bodyHdec, h]
  · change parseHeader src true = .error e at h
    simp only [bodyOf, bodyAdec, h]

/-- A decoder whose total exceeds the window ends before it reads a payload bit. -/
theorem bodyOf_totalOverflow {i : Instr} {src : List Byte} {hd : Header} {dc : Nat} (hi : i = .hdec ∨ i = .adec)
    (h : parseHeader src (decide (i = .adec)) = .ok hd) (hdc : dc < hd.total) :
    bodyOf i src dc = .error .outputOverflow := by
  rcases hi with rfl | rfl
  · change parseHeader src false = .ok hd at h
    simp only [bodyOf, bodyHdec, h, hdc, if_true]
  · change parseHeader src true = .ok hd at h
    simp only [bodyOf, bodyAdec, h, hdc, if_true]

/-- Settles O23: an encoder's overflow is found at delivery, the decoders' errors are the body's. -/
theorem capacityErrors : Obligations.CapacityErrors := by
  intro i s r ha
  refine ⟨fun out syms w hb hlen => ?_, fun hi e hp => ?_, fun hi h hp hdc => ?_,
    endWithError_failedWith s r .outputOverflow, endWithError_failedWith s r .modelParse⟩
  · rw [exec_bodyOk ha hb, State.deliver, if_pos hlen]
  · obtain rfl := parseHeader_error hp
    exact exec_bodyError ha (bodyOf_badHeader _ hi hp)
  · exact exec_bodyError ha (bodyOf_totalOverflow hi hp hdc)

end Sys2Proof.Machine
end

section
/-! # What a host load sees (R57, R63, R66, R225) -/

namespace Sys2Proof.Machine

/-- A region is not stale on a coherent platform, nor where every dirty region lies beside it. -/
theorem stale_eq_false {s : State} {dirty : List Region} {q : Region}
    (h : s.platform.coherentDma = true ∨ ∀ d ∈ dirty, d.overlaps q = false) : s.stale dirty q = false := by
  rcases h with h | h
  · simp [State.stale, h]
  · rw [State.stale, List.any_eq_false.mpr fun d hd => by simp [h d hd], Bool.and_false]

/-- A byte overlaps the regions that contain it. -/
theorem overlaps_byte_eq_false {q : Region} {a : Nat} (h : ¬ (q.base ≤ a ∧ a < q.base + q.size)) :
    q.overlaps ⟨a, 1⟩ = false := by
  rw [← Bool.not_eq_true, overlaps_iff]
  simp only
  omega

/-- A byte that no window, no dirty region and no device holds is not hidden from the host. -/
theorem hidden_eq_false {s : State} {a : Nat}
    (hdirty : s.platform.coherentDma = true ∨ ∀ q ∈ s.dmaDirty, ¬ (q.base ≤ a ∧ a < q.base + q.size))
    (hdevice : s.platform.answers .read ⟨a, 1⟩ .sideEffect = false)
    (hwindow : ∀ r, s.running = some r → ¬ (r.latch.da.toNat ≤ a ∧ a < r.latch.da.toNat + r.latch.dc.toNat)) :
    s.hidden a = false := by
  have hrunning : s.running.any (fun r => r.latch.dst.contains a) = false := by
    cases hr : s.running with
    | none => rfl
    | some r => exact Bool.eq_false_iff.mpr fun hc => hwindow r hr ((contains_iff _ a).mp hc)
  have hstale : s.stale s.dmaDirty ⟨a, 1⟩ = false :=
    stale_eq_false (hdirty.imp_right fun h q hq => overlaps_byte_eq_false (h q hq))
  rw [State.hidden, hrunning, hstale, hdevice]
  rfl

/-- A host load of a byte that is not hidden returns the byte of memory. -/
theorem hostByte_visible {s : State} {a : Nat} (h : s.hidden a = false) : s.hostByte a = s.mem.read a := by
  rw [State.hostByte, h]
  rfl

/-- A maintenance leaves no dirty region, so that nothing is stale. -/
theorem stale_nil (s : State) (q : Region) : s.stale [] q = false := stale_eq_false (.inr nofun)

/-- A store of the host makes its byte dirty where DMA is not coherent, whatever the core does. -/
theorem hostStore_hostDirty {s : State} (a : Nat) (b : Byte) (h : s.platform.coherentDma = false) :
    (s.hostStore a b).hostDirty = ⟨a, 1⟩ :: s.hostDirty := by
  have hput : (s.putByte a b).hostDirty = ⟨a, 1⟩ :: s.hostDirty := by simp [State.addDirty, h]
  rcases hostStore_cases s a b with ⟨r, _, e⟩ | ⟨_, e⟩ | ⟨l, _, _, _, e⟩ <;> rw [e]
  all_goals exact hput

/-- A host load by an idle core in a state that keeps a success's memory returns the result's byte. -/
theorem step_memRead_success {s u : State} {r : Running} {out : List Byte} {syms : Nat} {w : Work}
    {es : List HostEvent} {a : Word} {k : Nat} (hidle : u.running = none) (hmem : u.mem = (s.success r out syms w).mem)
    (hi : u.inputs = .memRead a :: es) (hk : k < out.length) (ha : a.toNat = r.latch.da.toNat + k)
    (hdirty : u.platform.coherentDma = true ∨ u.dmaDirty = [])
    (hdevice : u.platform.answers .read ⟨a.toNat, 1⟩ .sideEffect = false) :
    ∃ v, step u = .next v ∧ v.resp = some (.byte (out.getD k 0#8)) := by
  have hvisible : u.hidden a.toNat = false :=
    hidden_eq_false (hdirty.imp_right fun h q hq => by rw [h] at hq; cases hq) hdevice
      fun q hq => by rw [hidle] at hq; cases hq
  have hbyte : u.hostByte a.toNat = out.getD k 0#8 := by
    rw [hostByte_visible hvisible, hmem, ha, success_read s r syms w hk, List.getD_eq_getElem _ _ hk]
  refine ⟨_, step_idle hidle, ?_⟩
  rw [hostTurn_memRead hi, hostLoad_resp, ← hbyte]
  rfl

/-- Settles O32: the load by what can hide a byte, the maintenance by the lists it empties. -/
theorem hostLoadReturnsMemory : Obligations.HostLoadReturnsMemory := by
  refine ⟨fun s a es hi => ⟨fun hdirty hdevice hwindow => ?_, ?_⟩,
    fun s hcoherent => ⟨fun a b => hostStore_hostDirty a b hcoherent, fun r out syms w => ?_, fun es hi => ?_⟩,
    fun s r out syms w es a k hk ha hdevice => ⟨?_, fun hcoherent => ?_⟩⟩
  · have hvisible : ({ s with inputs := es } : State).hidden a.toNat = false := hidden_eq_false hdirty hdevice hwindow
    rw [hostTurn_memRead hi, State.hostLoad, hostByte_visible hvisible]
    rfl
  · exact ⟨_, hostTurn_memRead hi⟩
  · simp [State.success, State.addDirty, hcoherent]
  · rw [hostTurn_maintain hi]
    exact ⟨rfl, fun q => stale_nil _ q⟩
  · obtain ⟨v, hv, hresp⟩ := step_memRead_success (s := s) (r := r) (syms := syms) (w := w)
      (u := { s.success r out syms w with inputs := .memRead a :: es, hostDirty := [], dmaDirty := [] })
      rfl rfl rfl hk ha (.inr rfl) hdevice
    exact ⟨_, v, step_idle rfl, hv, hresp⟩
  · exact step_memRead_success (s := s) (r := r) (syms := syms) (w := w)
      (u := { s.success r out syms w with inputs := .memRead a :: es }) rfl rfl rfl hk ha (.inl hcoherent) hdevice

end Sys2Proof.Machine
end

section
/-! # A running command ends (R200, R239, R241) -/

namespace Sys2Proof.Machine

/-! ## Who leaves an access unanswered (R241) -/

/-- A set of accesses stalls only on a platform that leaves one of them unanswered. -/
theorem answers_never_of_stall {s : State} {dir : DmaDir} {q : Region} (h : s.dma dir q = .stall) :
    s.platform.answers dir q .never = true := by
  by_contra hn
  exact dma_ne_stall (Bool.eq_false_iff.mpr hn) h

/-- Some read of the source or some write of the window of `r` is never answered. -/
def State.Unanswered (s : State) (r : Running) : Prop :=
  s.platform.answers .read r.latch.src .never = true ∨ s.platform.answers .write r.latch.dst .never = true

/-- The command has ended in `t`, or waits for an access that its platform leaves unanswered. -/
def State.EndsOrWaits (s t : State) : Prop :=
  t.running = none ∨ ∃ q, t.running = some q ∧ q.stalled = true ∧ s.Unanswered q

/-- Which commands wait is a matter of the platform only. -/
theorem State.EndsOrWaits.of_platform {s s' t : State} (h : s'.EndsOrWaits t) (hp : s'.platform = s.platform) :
    s.EndsOrWaits t := by
  unfold State.EndsOrWaits State.Unanswered at *
  rwa [hp] at h

section
variable {s : State} {r : Running}

/-- A stall on an access of the command that is never answered. -/
theorem stall_endsOrWaits (n : Nat) (h : s.Unanswered r) : s.EndsOrWaits ((s.bump n).stall r) :=
  .inr ⟨_, rfl, rfl, h⟩

/-- The end of a body, whatever it is. -/
theorem finish_endsOrWaits (n : Nat) (res : BodyResult) : s.EndsOrWaits ((s.bump n).finish r res) := by
  rcases finish_cases (s.bump n) r res with ⟨_, _, _, e⟩ | ⟨_, _, e⟩ | ⟨⟨b, _, hd, hlen⟩, e⟩ <;> rw [e]
  · exact .inl rfl
  · exact .inl rfl
  · refine stall_endsOrWaits n (.inr ?_)
    by_contra hn
    have hanswered := answers_never_mono (base := r.latch.da.toNat) hlen (Bool.eq_false_iff.mpr hn)
    exact dma_ne_stall (s := s.bump n) hanswered hd

theorem endBeforeDma_endsOrWaits (code : ErrCode) : s.EndsOrWaits (s.endBeforeDma r code) := by
  unfold State.endBeforeDma
  split <;> exact .inl rfl

/-- The core's turn ends the command, or leaves it waiting on an unanswered access. -/
theorem frame_endsOrWaits (s : State) (i : Instr) (r : Running) : s.EndsOrWaits (s.frame i r (bodyOf i)) := by
  rcases frame_cases s i r (bodyOf i) with ⟨code, _, e⟩ | ⟨_, hd, e⟩ | ⟨_, _, _, e⟩ | ⟨_, _, _, e⟩ |
    ⟨_, _, _, _, e⟩ | ⟨_, _, _, e⟩ <;> rw [e]
  · exact endBeforeDma_endsOrWaits code
  · exact stall_endsOrWaits 0 (.inl (answers_never_of_stall hd))
  · rcases endUnspecified_cases s r with e' | ⟨hnever, e'⟩ <;> rw [e']
    · exact .inl rfl
    · exact stall_endsOrWaits 0 (.inr hnever)
  · exact .inl rfl
  · exact finish_endsOrWaits _ _
  · exact finish_endsOrWaits 0 _

end

/-! ## The host's turn while a command runs -/

/-- In `t` the command has been reset, or runs on unstalled, on the same platform and schedule. -/
def State.RunsOn (s t : State) : Prop :=
  t.running = none ∨
    ((∃ q, t.running = some q ∧ q.stalled = false) ∧ t.platform = s.platform ∧ t.schedule = s.schedule)

section
variable {s : State} {r : Running}

theorem writeCsr_runsOn (c : Csr) (v : Word) (hr : s.running = some r) (hs : r.stalled = false) :
    s.RunsOn (s.writeCsr c v) := by
  rcases writeCsr_cases s c v with ⟨_, _, e⟩ | ⟨_, hb, _⟩ | ⟨_, _, e⟩ | ⟨_, _, _, _, _, _, e⟩
  · exact .inl (by rw [e]; rfl)
  · rw [State.busy, hr] at hb
    cases hb
  · rw [e]
    exact .inr ⟨⟨r, hr, hs⟩, rfl, rfl⟩
  · rw [e]
    exact .inr ⟨⟨r, hr, hs⟩, rfl, rfl⟩

theorem hostStore_runsOn (a : Nat) (b : Byte) (hr : s.running = some r) (hs : r.stalled = false) :
    s.RunsOn (s.hostStore a b) := by
  rw [hostStore_busy a b hr]
  exact .inr ⟨⟨r.noteWrite a, rfl, hs⟩, rfl, rfl⟩

/-- An action of the host resets the command or lets it run on. -/
theorem hostTurn_runsOn (hr : s.running = some r) (hs : r.stalled = false) : s.RunsOn s.hostTurn := by
  rcases hostTurn_cases s with e | ⟨es, ⟨c, e⟩ | e | ⟨c, v, e⟩ | ⟨a, b, _, e⟩ | ⟨a, e⟩ | e | e | e⟩ <;> rw [e]
  · exact .inr ⟨⟨r, hr, hs⟩, rfl, rfl⟩
  · exact .inr ⟨⟨r, hr, hs⟩, rfl, rfl⟩
  · exact .inr ⟨⟨r, hr, hs⟩, rfl, rfl⟩
  · exact writeCsr_runsOn (s := { s with inputs := es }) c v hr hs
  · exact hostStore_runsOn (s := { s with inputs := es }) a.toNat b hr hs
  · exact .inr ⟨⟨r, hr, hs⟩, rfl, rfl⟩
  · exact .inr ⟨⟨r, hr, hs⟩, rfl, rfl⟩
  · exact .inr ⟨⟨r, hr, hs⟩, rfl, rfl⟩
  · exact .inl rfl

/-- While an unstalled command runs, the host has the turn only when the schedule gives it. -/
theorem schedule_of_hostMoves (hr : s.running = some r) (hs : r.stalled = false) (hm : s.coreMoves = false) :
    ∃ turns, s.schedule = .host :: turns := by
  have hhead : s.schedule.head? = some .host := by
    by_contra hne
    rw [(coreMoves_iff s).mpr ⟨r, hr, hs, .inr hne⟩] at hm
    cases hm
  exact List.head?_eq_some_iff.mp hhead

/-- One step of an unstalled running command ends it or leaves it waiting, or uses up a turn of the host. -/
theorem step_endsOrRunsOn (hr : s.running = some r) (hs : r.stalled = false) :
    ∃ t, step s = .next t ∧ (s.EndsOrWaits t ∨
      ∃ q, t.running = some q ∧ q.stalled = false ∧ t.platform = s.platform ∧
        t.schedule.length + 1 = s.schedule.length) := by
  rcases step_cases s with ⟨q, i, _, _, _, e⟩ | ⟨q, _, _, _, _, e⟩ | ⟨hm, e⟩
  · exact ⟨_, e, .inl (frame_endsOrWaits _ i q)⟩
  · exact ⟨_, e, .inl (endBeforeDma_endsOrWaits _)⟩
  · obtain ⟨turns, hturns⟩ := schedule_of_hostMoves hr hs hm
    rw [takeTurn_busy hr] at e
    refine ⟨_, e, ?_⟩
    rcases hostTurn_runsOn (s := { s with schedule := s.schedule.tail }) hr hs with h | ⟨⟨q, hq, hqs⟩, hp, hsch⟩
    · exact .inl (.inl h)
    · exact .inr ⟨q, hq, hqs, hp, by rw [hsch, hturns]; rfl⟩

end

/-- A run goes on from the next state. -/
theorem run_succ_of_step (M : Host.Core) {s t : M.State} (k : Nat) (h : M.step s = .next t) :
    M.run (k + 1) s = M.run k t := by
  rw [Host.Core.run, h]

/-- Within as many steps as the schedule has turns, and one more, an unstalled running command ends or waits. -/
theorem run_endsOrWaits (n : Nat) {s : State} {r : Running} (hn : s.schedule.length = n) (hr : s.running = some r)
    (hs : r.stalled = false) :
    ∃ k t, k ≤ n + 1 ∧ Host.Core.run core k s = .next t ∧ s.EndsOrWaits t := by
  induction n generalizing s r with
  | zero =>
    obtain ⟨t, ht, h | ⟨_, _, _, _, hlen⟩⟩ := step_endsOrRunsOn hr hs
    · exact ⟨1, t, Nat.le_refl 1, run_succ_of_step core 0 ht, h⟩
    · rw [hn] at hlen
      cases hlen
  | succ n ih =>
    obtain ⟨t, ht, h | ⟨q, hq, hqs, hplatform, hlen⟩⟩ := step_endsOrRunsOn hr hs
    · exact ⟨1, t, Nat.le_add_left 1 _, run_succ_of_step core 0 ht, h⟩
    · obtain ⟨k, u, hk, hu, hends⟩ := ih (Nat.succ.inj (hlen.trans hn)) hq hqs
      refine ⟨k + 1, u, Nat.succ_le_succ hk, (run_succ_of_step core k ht).trans hu, ?_⟩
      exact hends.of_platform hplatform

/-- Settles O6, by induction on the turns of the schedule. -/
theorem runningCommandEnds : Obligations.RunningCommandEnds := fun _ _ hr hs => run_endsOrWaits _ rfl hr hs

end Sys2Proof.Machine
end

section
/-! # Proofs about a reset: the soft reset is the hardware reset, and only an abandoned window loses its bytes (R230 to
R233) -/

namespace Sys2Proof.Machine

/-- A write at a register's own address is acknowledged and writes that register (R59). -/
theorem portWrite_accessOf (s : State) (c : Csr) (v : Word) :
    s.portWrite (accessOf s.platform.regBase c) v = { s.writeCsr c v with resp := some .ack } := by
  rw [State.portWrite, if_pos (accessOf_wf _ c), csrAt_accessOf]

/-- A reset while a command runs frees the command's window and no other memory (R233). -/
theorem resetCore_mem_busy {s : State} {r : Running} (hr : s.running = some r) :
    s.resetCore.mem = (s.scrubWindow r.latch).mem := by
  simp only [State.resetCore, State.abandon, hr, clearCore_mem]

/-- Settles O15: an idle core's reset abandons nothing; otherwise the one change is the freed window. -/
theorem resetKeepsMemory : Obligations.ResetKeepsMemory := by
  refine fun s => ⟨resetCore_mem_idle, fun r a hr ha => ?_⟩
  rw [resetCore_mem_busy hr]
  exact scrubWindow_read_outside s ha

/-- Settles O13: SRST makes the write a reset, whose register values O14 gives. -/
theorem softResetWins : Obligations.SoftResetWins := by
  intro s v hsrst
  obtain ⟨hstatus, _, hrunning, _⟩ := resetRegisterValues s .status
  obtain ⟨hctrl, _⟩ := resetRegisterValues s .ctrl
  have hreset : s.writeCsr .ctrl v = s.resetCore := writeCsr_ctrl_reset hsrst
  have hack : (s.portWrite (accessOf s.platform.regBase .ctrl) v).resp = some .ack := by rw [portWrite_accessOf]
  refine ⟨hreset, ?_, ?_, ?_, hack, fun es => hostTurn_resetPin⟩
  · rw [hreset]; exact hstatus
  · rw [hreset]; exact hctrl
  · rw [hreset]; exact hrunning

end Sys2Proof.Machine
end
